-- ==== Sys2Proof/Word.lean ====
section
/-! DEFINITION. The value types of the block: bytes, bus addresses, words, command words, the variant
strap, and the sparse byte arrays that hold the storage and the I/O register file (spec/00_scope.md R5,
spec/30_encoding.md R81). -/

namespace Sys2Proof

/-- `Byte` is 8 bits (R5). -/
abbrev Byte := BitVec 8

/-- A bus address, `ADDR_W` = 16 bits (R4, R5). -/
abbrev Addr := BitVec 16

/-- A data word, `WORD_W` = 16 bits (R4, R5). -/
abbrev Word := BitVec 16

/-- A command word `W = op ++ addr ++ data`, 36 bits (R81). -/
abbrev Command := BitVec 36

/-- The construction strap `variant[2:0]` (R80, R86). -/
abbrev StrapTag := BitVec 3

/-- An array of bytes indexed by a natural number, as the list of its cells that differ from what an
unlisted index reads as, in rising order of index (`Memory.wf`). It holds the storage `S` (R21) and the I/O
register file `io` (R22). -/
abbrev Memory := List Host.Cell

end Sys2Proof
end

