-- ==== Sys2Proof/Syntax.lean ====
section
/-! DEFINITION. The operations of the block: one constructor per row of spec/opcode_table.json, and what the
outside world can present to it. -/

namespace Sys2Proof

/-- The five interrupt kinds (R150). -/
inductive Kind where
  | vBlank
  | lcdStat
  | timer
  | serial
  | joypad
  deriving DecidableEq, Repr

/-- The operations. The CMD and STRAP rows are what the decoder answers. The REGION, CTL and INTERNAL rows
split `read_byte` and `write_byte` by address and by variant (R84, R87, R88): their words are command words of
those two operations, and they take that command word's operands (log 8). -/
inductive Instr where
  -- CMD rows (R82)
  | readByte (addr : Addr)
  | writeByte (addr : Addr) (val : Byte)
  | readWord (addr : Addr)
  | writeWord (addr : Addr) (val : Word)
  | setBank (bank : Byte)
  | checkInterrupt (kind : Kind)
  | triggerInterrupt (kind : Kind)
  | dmaTransfer (sourcePage : Byte)
  | reserved (op : BitVec 4) (addr : Addr) (data : Word)
  -- REGION rows (R87)
  | readByteIe (addr : Addr)
  | readByteIo (addr : Addr)
  | readByteHigh (addr : Addr)
  | readByteBanked (addr : Addr)
  | readByteLow (addr : Addr)
  | writeByteIe (addr : Addr) (val : Byte)
  | writeByteIo (addr : Addr) (val : Byte)
  | writeByteHigh (addr : Addr) (val : Byte)
  | writeByteCtl (addr : Addr) (val : Byte)
  -- CTL rows (R88)
  | applyWriteNone (addr : Addr) (val : Byte)
  | applyWriteType1RamEnable (addr : Addr) (val : Byte)
  | applyWriteType1RomBankLo (addr : Addr) (val : Byte)
  | applyWriteType1BankHi (addr : Addr) (val : Byte)
  | applyWriteType1Mode (addr : Addr) (val : Byte)
  | applyWriteType2RamEnable (addr : Addr) (val : Byte)
  | applyWriteType2RomBank (addr : Addr) (val : Byte)
  | applyWriteType2Nop (addr : Addr) (val : Byte)
  | applyWriteType3RamEnable (addr : Addr) (val : Byte)
  | applyWriteType3RomBank (addr : Addr) (val : Byte)
  | applyWriteType3RamBank (addr : Addr) (val : Byte)
  | applyWriteType3Nop (addr : Addr) (val : Byte)
  | applyWriteType5RamEnable (addr : Addr) (val : Byte)
  | applyWriteType5RomBankLo (addr : Addr) (val : Byte)
  | applyWriteType5RomBankHi (addr : Addr) (val : Byte)
  | applyWriteType5RamBank (addr : Addr) (val : Byte)
  | applyWriteType5Nop (addr : Addr) (val : Byte)
  -- INTERNAL rows (R170): the banked read that calls the row's `Resolve`
  | resolveNone (addr : Addr)
  | resolveType1 (addr : Addr)
  | resolveType2 (addr : Addr)
  | resolveType3 (addr : Addr)
  | resolveType5 (addr : Addr)
  -- STRAP rows (R86): construction of an instance of the variant
  | variantNone
  | variantType1
  | variantType2
  | variantType3
  | variantType5
  deriving DecidableEq, Repr

/-- What the outside world presents to the block: a command word at the command port, by the driver, or a
variant tag at the construction strap, by the loader (R80, R81, R86). -/
inductive Request where
  | command (w : Command)
  | strap (tag : StrapTag)
  deriving DecidableEq, Repr

end Sys2Proof
end

