-- ==== Sys2Proof/WellFormed.lean ====
section
/-! DEFINITION. Which terms of `Instr` are rows of the opcode table: the address of a row that stands for one
region or one control sub-range lies in it, and a reserved command's operation code is a reserved one. -/

namespace Sys2Proof

/-- `addr` lies in the half-open range `[lo, hi)` (R5). -/
def Addr.inRange (lo hi : Nat) (addr : Addr) : Bool :=
  decide (lo ≤ addr.toNat) && decide (addr.toNat < hi)

/-- The conditions of the opcode table's rows on their operands (R87, R88, R92). The state's conditions
(variant, gate) are not the term's. -/
def Instr.wellFormed : Instr → Bool
  | .readByte _ | .writeByte _ _ | .readWord _ | .writeWord _ _ => true
  | .setBank _ | .checkInterrupt _ | .triggerInterrupt _ | .dmaTransfer _ => true
  | .reserved op _ _ => decide (8 ≤ op.toNat)
  | .readByteIe a => a == 0xFFFF#16
  | .readByteIo a => a.inRange 0xFF00 0xFFFF
  | .readByteHigh a => a.inRange 0x8000 0xFF00
  | .readByteBanked a => a.inRange 0x4000 0x8000
  | .readByteLow a => a.inRange 0x0000 0x4000
  | .writeByteIe a _ => a == 0xFFFF#16
  | .writeByteIo a _ => a.inRange 0xFF00 0xFFFF
  | .writeByteHigh a _ => a.inRange 0x8000 0xFF00
  | .writeByteCtl a _ => a.inRange 0x0000 0x8000
  | .applyWriteNone a _ => a.inRange 0x0000 0x8000
  | .applyWriteType1RamEnable a _ => a.inRange 0x0000 0x2000
  | .applyWriteType1RomBankLo a _ => a.inRange 0x2000 0x4000
  | .applyWriteType1BankHi a _ => a.inRange 0x4000 0x6000
  | .applyWriteType1Mode a _ => a.inRange 0x6000 0x8000
  | .applyWriteType2RamEnable a _ => a.inRange 0x0000 0x2000
  | .applyWriteType2RomBank a _ => a.inRange 0x2000 0x4000
  | .applyWriteType2Nop a _ => a.inRange 0x4000 0x8000
  | .applyWriteType3RamEnable a _ => a.inRange 0x0000 0x2000
  | .applyWriteType3RomBank a _ => a.inRange 0x2000 0x4000
  | .applyWriteType3RamBank a _ => a.inRange 0x4000 0x6000
  | .applyWriteType3Nop a _ => a.inRange 0x6000 0x8000
  | .applyWriteType5RamEnable a _ => a.inRange 0x0000 0x2000
  | .applyWriteType5RomBankLo a _ => a.inRange 0x2000 0x3000
  | .applyWriteType5RomBankHi a _ => a.inRange 0x3000 0x4000
  | .applyWriteType5RamBank a _ => a.inRange 0x4000 0x6000
  | .applyWriteType5Nop a _ => a.inRange 0x6000 0x8000
  | .resolveNone a | .resolveType1 a | .resolveType2 a | .resolveType3 a | .resolveType5 a =>
    a.inRange 0x4000 0x8000
  | .variantNone | .variantType1 | .variantType2 | .variantType3 | .variantType5 => true

end Sys2Proof
end

