-- ==== Sys2Proof/Decode.lean ====
section
/-! DEFINITION. Decoding what is presented to the block, and encoding an operation (spec/30_encoding.md R81 to
R86, R92). `decode` is total and rejects by name; the encoder follows the same tables. -/

namespace Sys2Proof

/-! ### The fields of a command word (R81) -/

/-- `W[35:32]`. -/
def Command.op (w : Command) : BitVec 4 := w.extractLsb' 32 4

/-- `W[31:16]`. -/
def Command.addr (w : Command) : Addr := w.extractLsb' 16 16

/-- `W[15:0]`. -/
def Command.data (w : Command) : Word := w.extractLsb' 0 16

/-- `op ++ addr ++ data`, the concatenation of R81. -/
def Command.assemble (op : BitVec 4) (addr : Addr) (data : Word) : Command :=
  (op.setWidth 36 <<< 32) ||| (addr.setWidth 36 <<< 16) ||| data.setWidth 36

/-- The byte operand of `write_byte`, `set_bank` and `dma_transfer`: `data[7:0]` (R83). -/
def Command.byteOperand (w : Command) : Byte := w.data.extractLsb' 0 8

/-- The kind operand: `data[2:0]` (R83). -/
def Command.kindOperand (w : Command) : BitVec 3 := w.data.extractLsb' 0 3

/-! ### Interrupt kind codes (R85) -/

/-- The kind a 3-bit code names; codes 5, 6 and 7 name none (R85, R92). -/
def Kind.ofCode (c : BitVec 3) : Option Kind :=
  if c = 0#3 then some .vBlank
  else if c = 1#3 then some .lcdStat
  else if c = 2#3 then some .timer
  else if c = 3#3 then some .serial
  else if c = 4#3 then some .joypad
  else none

/-- The kind's code, which is its bit position (R85). -/
def Kind.code : Kind → BitVec 3
  | .vBlank  => 0#3
  | .lcdStat => 1#3
  | .timer   => 2#3
  | .serial  => 3#3
  | .joypad  => 4#3

/-! ### Decoding -/

/-- Why nothing is decoded (R92): both are the treatment `refuse` of spec/93_implementation_defined.md U3, U4. -/
inductive DecodeError where
  /-- `check_interrupt` or `trigger_interrupt` with a kind code of 5 to 7 (R92). -/
  | invalidKind (w : Command)
  /-- A variant tag of 4, 6 or 7 (R86, R231). -/
  | malformedVariant (tag : StrapTag)
  deriving DecidableEq, Repr

/-- An operation on an interrupt kind, if the code names one. -/
def decodeKind (w : Command) (make : Kind → Instr) : Except DecodeError Instr :=
  match Kind.ofCode w.kindOperand with
  | some k => .ok (make k)
  | none   => .error (.invalidKind w)

/-- The command port: the operation code selects the operation (R82), the other fields are its operands or are
ignored (R83, R84). Codes 8 to 15 are the reserved row. -/
def decodeCommand (w : Command) : Except DecodeError Instr :=
  if w.op = 0x0#4 then .ok (.readByte w.addr)
  else if w.op = 0x1#4 then .ok (.writeByte w.addr w.byteOperand)
  else if w.op = 0x2#4 then .ok (.readWord w.addr)
  else if w.op = 0x3#4 then .ok (.writeWord w.addr w.data)
  else if w.op = 0x4#4 then .ok (.setBank w.byteOperand)
  else if w.op = 0x5#4 then decodeKind w .checkInterrupt
  else if w.op = 0x6#4 then decodeKind w .triggerInterrupt
  else if w.op = 0x7#4 then .ok (.dmaTransfer w.byteOperand)
  else .ok (.reserved w.op w.addr w.data)

/-- The construction strap (R86). -/
def decodeStrap (tag : StrapTag) : Except DecodeError Instr :=
  if tag = 0#3 then .ok .variantNone
  else if tag = 1#3 then .ok .variantType1
  else if tag = 2#3 then .ok .variantType2
  else if tag = 3#3 then .ok .variantType3
  else if tag = 5#3 then .ok .variantType5
  else .error (.malformedVariant tag)

/-- The operation that a request asks for. -/
def decode : Request → Except DecodeError Instr
  | .command w => decodeCommand w
  | .strap tag => decodeStrap tag

/-! ### Encoding -/

/-- The command a row's words are (R84, log 8): the REGION, CTL and INTERNAL rows split `read_byte` and
`write_byte`; every other row is its own command. -/
def Instr.command : Instr → Instr
  | .readByte a => .readByte a
  | .writeByte a v => .writeByte a v
  | .readWord a => .readWord a
  | .writeWord a w => .writeWord a w
  | .setBank b => .setBank b
  | .checkInterrupt k => .checkInterrupt k
  | .triggerInterrupt k => .triggerInterrupt k
  | .dmaTransfer p => .dmaTransfer p
  | .reserved op a d => .reserved op a d
  | .readByteIe a | .readByteIo a | .readByteHigh a | .readByteBanked a | .readByteLow a => .readByte a
  | .resolveNone a | .resolveType1 a | .resolveType2 a | .resolveType3 a | .resolveType5 a => .readByte a
  | .writeByteIe a v | .writeByteIo a v | .writeByteHigh a v | .writeByteCtl a v => .writeByte a v
  | .applyWriteNone a v => .writeByte a v
  | .applyWriteType1RamEnable a v | .applyWriteType1RomBankLo a v => .writeByte a v
  | .applyWriteType1BankHi a v | .applyWriteType1Mode a v => .writeByte a v
  | .applyWriteType2RamEnable a v | .applyWriteType2RomBank a v | .applyWriteType2Nop a v => .writeByte a v
  | .applyWriteType3RamEnable a v | .applyWriteType3RomBank a v => .writeByte a v
  | .applyWriteType3RamBank a v | .applyWriteType3Nop a v => .writeByte a v
  | .applyWriteType5RamEnable a v | .applyWriteType5RomBankLo a v => .writeByte a v
  | .applyWriteType5RomBankHi a v | .applyWriteType5RamBank a v | .applyWriteType5Nop a v => .writeByte a v
  | .variantNone => .variantNone
  | .variantType1 => .variantType1
  | .variantType2 => .variantType2
  | .variantType3 => .variantType3
  | .variantType5 => .variantType5

/-- The request that an operation is encoded as, in the canonical encoding: zero in every ignored bit (R84). A row
that shares another's words is encoded as the command its words are. -/
def encode : Instr → Request
  | .readByte a => .command (Command.assemble 0x0#4 a 0#16)
  | .writeByte a v => .command (Command.assemble 0x1#4 a (v.setWidth 16))
  | .readWord a => .command (Command.assemble 0x2#4 a 0#16)
  | .writeWord a w => .command (Command.assemble 0x3#4 a w)
  | .setBank b => .command (Command.assemble 0x4#4 0#16 (b.setWidth 16))
  | .checkInterrupt k => .command (Command.assemble 0x5#4 0#16 (k.code.setWidth 16))
  | .triggerInterrupt k => .command (Command.assemble 0x6#4 0#16 (k.code.setWidth 16))
  | .dmaTransfer p => .command (Command.assemble 0x7#4 0#16 (p.setWidth 16))
  | .reserved op a d => .command (Command.assemble op a d)
  | .variantNone => .strap 0#3
  | .variantType1 => .strap 1#3
  | .variantType2 => .strap 2#3
  | .variantType3 => .strap 3#3
  | .variantType5 => .strap 5#3
  | .readByteIe a | .readByteIo a | .readByteHigh a | .readByteBanked a | .readByteLow a
  | .resolveNone a | .resolveType1 a | .resolveType2 a | .resolveType3 a | .resolveType5 a =>
    .command (Command.assemble 0x0#4 a 0#16)
  | .writeByteIe a v | .writeByteIo a v | .writeByteHigh a v | .writeByteCtl a v
  | .applyWriteNone a v | .applyWriteType1RamEnable a v | .applyWriteType1RomBankLo a v
  | .applyWriteType1BankHi a v | .applyWriteType1Mode a v | .applyWriteType2RamEnable a v
  | .applyWriteType2RomBank a v | .applyWriteType2Nop a v | .applyWriteType3RamEnable a v
  | .applyWriteType3RomBank a v | .applyWriteType3RamBank a v | .applyWriteType3Nop a v
  | .applyWriteType5RamEnable a v | .applyWriteType5RomBankLo a v | .applyWriteType5RomBankHi a v
  | .applyWriteType5RamBank a v | .applyWriteType5Nop a v =>
    .command (Command.assemble 0x1#4 a (v.setWidth 16))

/-- The bits of a command word that take part in the decoding of an operation; the others are ignored (R83,
R84). -/
def usedBits : Instr → Command
  | .readByte _ | .readWord _ => 0xFFFFF0000#36
  | .writeByte _ _ => 0xFFFFF00FF#36
  | .writeWord _ _ | .reserved _ _ _ => 0xFFFFFFFFF#36
  | .setBank _ | .dmaTransfer _ => 0xF000000FF#36
  | .checkInterrupt _ | .triggerInterrupt _ => 0xF00000007#36
  | .readByteIe _ | .readByteIo _ | .readByteHigh _ | .readByteBanked _ | .readByteLow _
  | .resolveNone _ | .resolveType1 _ | .resolveType2 _ | .resolveType3 _ | .resolveType5 _ => 0xFFFFF0000#36
  | .writeByteIe _ _ | .writeByteIo _ _ | .writeByteHigh _ _ | .writeByteCtl _ _
  | .applyWriteNone _ _ | .applyWriteType1RamEnable _ _ | .applyWriteType1RomBankLo _ _
  | .applyWriteType1BankHi _ _ | .applyWriteType1Mode _ _ | .applyWriteType2RamEnable _ _
  | .applyWriteType2RomBank _ _ | .applyWriteType2Nop _ _ | .applyWriteType3RamEnable _ _
  | .applyWriteType3RomBank _ _ | .applyWriteType3RamBank _ _ | .applyWriteType3Nop _ _
  | .applyWriteType5RamEnable _ _ | .applyWriteType5RomBankLo _ _ | .applyWriteType5RomBankHi _ _
  | .applyWriteType5RamBank _ _ | .applyWriteType5Nop _ _ => 0xFFFFF00FF#36
  | .variantNone | .variantType1 | .variantType2 | .variantType3 | .variantType5 => 0#36

/-! ### The opcode table's numbering -/

/-- The request whose bits are `w`. The table's rows have two widths: a STRAP row has 3 bits, one byte, and is
presented at the strap; every other row has 36 bits, five bytes, and is presented at the command port. A port
takes the bits it has: 3 or 36 (log 14). -/
def presented (nbits w : Nat) : Request :=
  if nbits ≤ 8 then .strap (BitVec.ofNat 3 w) else .command (BitVec.ofNat 36 w)

/-- The instruction the decoder reads from an instruction of `nbits` bits `w`. -/
def decodeTableWord (nbits w : Nat) : Option Instr :=
  match decode (presented nbits w) with
  | .ok i    => some i
  | .error _ => none

end Sys2Proof
end

