-- ==== Sys2Proof/Config.lean ====
section
/-! DEFINITION. The implementation parameters of spec/00_scope.md R4. An instance's parameters are data
(`Params`), held in the machine's state and written by no operation, so that every claim is over all their
values unless it names one (log 5). -/

namespace Sys2Proof

/-- `VARIANT`: the bank-controller variant, selected once at construction (R1, R26). OPEN. -/
inductive Variant where
  | none
  | type1
  | type2
  | type3
  | type5
  deriving DecidableEq, Repr

/-- `BANK_AUTHORITY`: which register is the requested bank of a banked read (R141, decision D6). -/
inductive BankAuthority where
  | activeBank
  | controllerRomBank
  deriving DecidableEq, Repr

/-- `OOR_POLICY`: a banked read whose effective address is 0x10000 or more (R59, decision D8). -/
inductive OorPolicy where
  | fault
  | wrap16
  deriving DecidableEq, Repr

/-- `WORD_WRAP`: a word access at 0xFFFF (R132, decision D9). -/
inductive WordWrap where
  | fault
  | wrap16
  deriving DecidableEq, Repr

/-- `DMA_MODE`: whether the block transfer passes through its own gate (R160, R164, decision D10). -/
inductive DmaMode where
  | selfBlocking
  | bypass
  deriving DecidableEq, Repr

/-- `IF_MODE`: which flag bit a trigger sets (R153, decision D11). -/
inductive IfMode where
  | collapsed
  | perKind
  deriving DecidableEq, Repr

/-- The parameters of one instance but for `VARIANT`, which is the shape of the controller record (R4). -/
structure Params where
  bankAuthority : BankAuthority
  oorPolicy     : OorPolicy
  wordWrap      : WordWrap
  dmaMode       : DmaMode
  ifMode        : IfMode
  /-- `RESET_MODE`: Type1 `mode` after construction (R43). OPEN. -/
  resetMode     : Bool
  /-- `INIT_STORAGE`: the storage after construction, supplied by the loader (R42). OPEN. -/
  initStorage   : Memory
  deriving DecidableEq, Repr

/-- The defaults of R4. The two OPEN parameters have none: `resetMode = false` (log 3) and an image of 0x00 in
every cell (log 2) are DESIGN CHOICES of this model, and no statement rests on them. -/
def Params.default : Params where
  bankAuthority := .activeBank
  oorPolicy     := .fault
  wordWrap      := .fault
  dmaMode       := .selfBlocking
  ifMode        := .collapsed
  resetMode     := false
  initStorage   := []

end Sys2Proof
end

