-- ==== Sys2Proof/Machine/State.lean ====
section
/-! DEFINITION. The state of one instance of the block (spec/10_state.md R20 to R44), its value after
construction (R40, R230), and the reasons a step can stop (spec/60_exceptions.md R211). -/

namespace Sys2Proof.Machine

open Sys2Proof

/-! ### The bank-controller records (R27 to R31) -/

/-- `BC` of a Type1 controller (R27). -/
structure Type1Regs where
  romBank   : BitVec 7
  ramBank   : BitVec 2
  ramEnable : Bool
  /-- `true` is the document's "ROM mode". -/
  mode      : Bool
  deriving DecidableEq, Repr

/-- `BC` of a Type2 controller (R28). -/
structure Type2Regs where
  romBank   : BitVec 4
  ramEnable : Bool
  deriving DecidableEq, Repr

/-- `BC` of a Type3 controller (R29). -/
structure Type3Regs where
  romBank   : BitVec 7
  ramBank   : BitVec 2
  ramEnable : Bool
  deriving DecidableEq, Repr

/-- `BC` of a Type5 controller (R30). -/
structure Type5Regs where
  romBank   : BitVec 9
  ramBank   : BitVec 4
  ramEnable : Bool
  deriving DecidableEq, Repr

/-- `BC`: one shape per variant; the None variant has no register of its own (R26, R31). The registers of one
variant do not exist under another, and their widths are the types', so R32's bounds hold of every value. -/
inductive Controller where
  | none
  | type1 (r : Type1Regs)
  | type2 (r : Type2Regs)
  | type3 (r : Type3Regs)
  | type5 (r : Type5Regs)
  deriving DecidableEq, Repr

/-- `VARIANT`, read from the shape of the record (R26). -/
def Controller.variant : Controller → Variant
  | .none    => .none
  | .type1 _ => .type1
  | .type2 _ => .type2
  | .type3 _ => .type3
  | .type5 _ => .type5

/-! ### The response port -/

/-- The response of the last operation (R95): the unit response, a byte or a word on `rsp_data`, or a boolean on
`rsp_flag`. -/
inductive Response where
  | unit
  | byte (v : Byte)
  | word (v : Word)
  | flag (b : Bool)
  deriving DecidableEq, Repr

/-! ### The state -/

/-- The state tuple `(S, io, IE, AB, TIP, BC)` of R20, the instance's parameters (R4, R44), and two fields of the
model's own: the requests the outside has yet to present, and the last response (R80, log 6, log 7). -/
structure State where
  /-- The parameters of the instance: constant, written by no operation (log 5). -/
  params  : Params
  /-- `S`, 65536 cells (R21). -/
  storage : Memory
  /-- `io`, 256 cells; cell 0x0F is `IF` (R22, R35). -/
  io      : Memory
  /-- `IE` (R23, R36). -/
  ie      : Byte
  /-- `AB`, `BANK_W` = 8 bits (R24). -/
  ab      : Byte
  /-- `TIP`, the stall gate (R25). -/
  tip     : Bool
  /-- `BC` (R26 to R31). -/
  bc      : Controller
  /-- The requests not yet presented, the next one first (the model's own). -/
  pending : List Request
  /-- The response of the last operation (the model's own). -/
  rsp     : Response
  deriving DecidableEq, Repr

/-! ### Stopping -/

/-- Which word access met 0xFFFF (R211). -/
inductive AccessKind where
  | read
  | write
  deriving DecidableEq, Repr

/-- The model-level outcomes that spec/93_implementation_defined.md treats as a fault (U1, U2). The hardware has
no exception (R210): each stands for an input to which the source gives no result, changes no state and returns
no value (R211), and each is safe. -/
inductive Fault where
  /-- Raised by a banked read whose effective index is 3 or more, under `OOR_POLICY = Fault` (R212): by
  `read_byte` and its rows, by `read_word`, and by `dma_transfer` under `DMA_MODE = Bypass`. Safe. -/
  | bankedReadOutOfRange (addr : Addr) (e : Nat)
  /-- Raised by `read_word` and `write_word` at 0xFFFF, under `WORD_WRAP = Fault` (R213). Safe. -/
  | wordAddressWrap (kind : AccessKind)
  deriving DecidableEq, Repr

/-- Why the model gives no step. -/
inductive Refusal where
  /-- An operation that has no meaning yet; raised by an arm of `exec` only. Safe. -/
  | notModelled (mnemonic : String)
  /-- `InvalidCommand(W)`: raised for a command word that names no operation or no kind (R214, treatment `refuse`
  in U4), by the decoder and by the reserved row. Safe. -/
  | invalidCommand (w : Command)
  /-- Raised for a variant tag that names no variant: no instance is constructed (R231, U3). Safe. -/
  | malformedVariant (tag : StrapTag)
  deriving DecidableEq, Repr

/-! ### Construction, the block's one reset (R230) -/

/-- `BC` after construction (R40): every register zero or false, and Type1 `mode` at `RESET_MODE` (R43). -/
def Controller.constructed (resetMode : Bool) : Variant → Controller
  | .none  => .none
  | .type1 => .type1 { romBank := 0#7, ramBank := 0#2, ramEnable := false, mode := resetMode }
  | .type2 => .type2 { romBank := 0#4, ramEnable := false }
  | .type3 => .type3 { romBank := 0#7, ramBank := 0#2, ramEnable := false }
  | .type5 => .type5 { romBank := 0#9, ramBank := 0#4, ramEnable := false }

/-- The state after construction, a function of the parameters and the variant (R40, R230). The zero values of
`io`, `IE`, `AB` and the controller's registers are the spec's own decision D13 (log 4). -/
def State.construct (p : Params) (v : Variant) : State where
  params  := p
  storage := p.initStorage
  io      := []
  ie      := 0x00#8
  ab      := 0x00#8
  tip     := false
  bc      := Controller.constructed p.resetMode v
  pending := []
  rsp     := .unit

/-- The machine right after reset: an instance constructed with the default parameters. `VARIANT` is OPEN; the None
variant here is this model's DESIGN CHOICE (log 1), as are the loader's image (log 2) and `RESET_MODE` (log 3). -/
def State.reset : State := State.construct Params.default .none

end Sys2Proof.Machine
end

