-- ==== Sys2Proof/Machine/Operands.lean ====
section
/-! DEFINITION. The operand forms: the halves of a word, the bit of an interrupt kind, the index of an I/O cell, the
addresses of a block transfer, and the effective address of a banked read. -/

namespace Sys2Proof.Machine

open Sys2Proof

/-- `w[7:0]`, the byte at the word's own address (R52, R91). -/
def loByte (w : Word) : Byte := w.extractLsb' 0 8

/-- `w[15:8]`, the byte at the next address (R52, R91). -/
def hiByte (w : Word) : Byte := w.extractLsb' 8 8

/-- `(zext_16(hi) << 8) | zext_16(lo)` (R91, R130). -/
def wordOf (hi lo : Byte) : Word := (hi.setWidth 16 <<< 8) ||| lo.setWidth 16

/-- The address of a word's second byte (R130). It is `addr + 1`, and 0x0000 at 0xFFFF, where the word operations
reach it only under `WORD_WRAP = Wrap16` (R132). -/
def secondAddr (addr : Addr) : Addr := addr + 1#16

/-- `Mask(kind) = 1 << kind` (R85, R150). -/
def kindMask (k : Kind) : Byte := 1#8 <<< k.code.toNat

/-- `addr - 0xFF00 = addr[7:0]` for an address of the I/O window (R89). -/
def ioIndex (addr : Addr) : Nat := addr.toNat - 0xFF00

/-- The source address of byte `i` of a block transfer, `(source_page << 8) + i` (R90). -/
def dmaSource (page : Byte) (i : Nat) : Addr := BitVec.ofNat 16 ((page.toNat <<< 8) + i)

/-- The destination address of byte `i` of a block transfer, `0xFE00 + i` (R90). -/
def dmaDest (i : Nat) : Addr := BitVec.ofNat 16 (0xFE00 + i)

/-- The effective address of a banked read, `addr + e * 0x4000`, a natural number (R7, R58, R113). -/
def effectiveAddr (addr : Addr) (e : Nat) : Nat := addr.toNat + e * 0x4000

end Sys2Proof.Machine
end

