-- ==== Sys2Proof/Machine/Flags.lean ====
section
/-! DEFINITION. The one-bit flags (R34): how `ram_enable`, `mode` and the bits of `IF` are computed, and what the bits
of `IE` say. The block has no condition codes. -/

namespace Sys2Proof.Machine

open Sys2Proof

/-- `EnableOf(val) = ((val & 0x0F) == 0x0A)` (R178). -/
def enableOf (val : Byte) : Bool := (val &&& 0x0F#8) == 0x0A#8

/-- `(val & 0x01) == 0` (R182). -/
def modeOf (val : Byte) : Bool := (val &&& 0x01#8) == 0x00#8

/-- `(IE & Mask(kind)) != 0`: the kind is enabled (R151). -/
def kindEnabled (ie : Byte) (k : Kind) : Bool := (ie &&& kindMask k) != 0x00#8

/-- `IfMask(kind)`: the bit of `IF` that a trigger sets (R153). -/
def ifMask : IfMode → Kind → Byte
  | .collapsed, _ => 0x01#8
  | .perKind,   k => kindMask k

end Sys2Proof.Machine
end

