-- ==== Sys2Proof/Machine/Ops.lean ====
section
/-! DEFINITION. The operations that the meanings share: byte arrays in canonical form, the region decode, the bank
controller (`Resolve` and `ApplyWrite`), the byte and word accesses through the stall gate, the block transfer's steps,
and how an operation answers. The block takes no exception (R210, R219), so there is no exception entry among them. -/

namespace Sys2Proof

/-! ### Byte arrays -/

/-- What an index with no listed cell reads as. The source gives no initial storage (R42 leaves it OPEN); 0x00 is the
value of every unlisted cell, a DESIGN CHOICE for `S` (log 2) and the reset value of `io` (R40, log 4). -/
def Memory.unlisted : Byte := 0x00#8

/-- The byte at an index. -/
def Memory.read : Memory → Nat → Byte
  | [],             _ => Memory.unlisted
  | (k, b) :: rest, a => if a = k then b else Memory.read rest a

/-- The array with one cell listed, in its place in the order. -/
def Memory.insert : Memory → Nat → Byte → Memory
  | [],             a, v => [(a, v)]
  | (k, b) :: rest, a, v =>
    if a < k then (a, v) :: (k, b) :: rest
    else if a = k then (a, v) :: rest
    else (k, b) :: Memory.insert rest a v

/-- The array with no cell listed at an index. -/
def Memory.erase : Memory → Nat → Memory
  | [],             _ => []
  | (k, b) :: rest, a => if a = k then Memory.erase rest a else (k, b) :: Memory.erase rest a

/-- `m[a] <- v`, keeping the canonical form. -/
def Memory.write (m : Memory) (a : Nat) (v : Byte) : Memory :=
  if v = Memory.unlisted then m.erase a else m.insert a v

/-- Every listed index is at least `lo`, they rise strictly, all are below `size`, and no listed byte is what an
unlisted index reads as. -/
def Memory.wfFrom (size : Nat) : Nat → Memory → Bool
  | _,  []             => true
  | lo, (k, b) :: rest =>
    decide (lo ≤ k) && decide (k < size) && (b != Memory.unlisted) && Memory.wfFrom size (k + 1) rest

/-- The canonical form of an array of `size` bytes: equal arrays are equal lists. -/
def Memory.wf (size : Nat) (m : Memory) : Bool := Memory.wfFrom size 0 m

end Sys2Proof

namespace Sys2Proof.Machine

open Sys2Proof

/-! ### Region decode (R87) -/

/-- The five regions of the bus address space (R51). -/
inductive Region where
  | low
  | banked
  | high
  | io
  | ie
  deriving DecidableEq, Repr

/-- `Region(addr)`, a priority decode: the first match wins (R87). -/
def region (addr : Addr) : Region :=
  if addr = 0xFFFF#16 then .ie
  else if addr.extractLsb' 8 8 = 0xFF#8 then .io
  else if addr.getLsbD 15 then .high
  else if addr.getLsbD 14 then .banked
  else .low

/-! ### The bank controller: `Resolve` (R170) -/

/-- `Resolve`, Type1 (R172). -/
def Type1Regs.resolve (r : Type1Regs) (requested : Nat) : Nat :=
  if r.mode then requested &&& 0x1F else (requested &&& 0x03) ||| (r.ramBank.toNat <<< 5)

/-- `Resolve`, Type2 (R173). -/
def resolveLowNibble (requested : Nat) : Nat := requested &&& 0x0F

/-- `Resolve(r)`: the effective index, by variant (R170 to R175). -/
def resolve : Controller → Nat → Nat
  | .none,    requested => requested
  | .type1 r, requested => r.resolve requested
  | .type2 _, requested => resolveLowNibble requested
  | .type3 _, requested => requested
  | .type5 _, requested => requested

/-- The controller's `rom_bank` as a bank number; the None variant has none (R27 to R31). -/
def controllerRomBank : Controller → Option Nat
  | .none    => Option.none
  | .type1 r => some r.romBank.toNat
  | .type2 r => some r.romBank.toNat
  | .type3 r => some r.romBank.toNat
  | .type5 r => some r.romBank.toNat

/-- `RequestedBank` (R141). -/
def requestedBank (s : State) : Nat :=
  match s.params.bankAuthority, controllerRomBank s.bc with
  | .activeBank,        _           => s.ab.toNat
  | .controllerRomBank, some b      => b
  | .controllerRomBank, Option.none => s.ab.toNat

/-- The effective index of a banked read: `Resolve(RequestedBank)` (R113). -/
def effectiveIndex (s : State) : Nat := resolve s.bc (requestedBank s)

/-! ### The bank controller: `ApplyWrite` (R176), one register transfer a cell -/

/-- R179: Type1 `ram_enable`. -/
def Type1Regs.setRamEnable (r : Type1Regs) (val : Byte) : Type1Regs := { r with ramEnable := enableOf val }

/-- R180: bits 4:0 of Type1 `rom_bank` are replaced, bits 6:5 kept. -/
def Type1Regs.setRomBankLo (r : Type1Regs) (val : Byte) : Type1Regs :=
  { r with romBank := (r.romBank &&& 0x60#7) ||| (val &&& 0x1F#8).setWidth 7 }

/-- R181: bits 6:5 of Type1 `rom_bank` in ROM mode, `ram_bank` otherwise. -/
def Type1Regs.setBankHi (r : Type1Regs) (val : Byte) : Type1Regs :=
  if r.mode then { r with romBank := (r.romBank &&& 0x1F#7) ||| ((val &&& 0x03#8).setWidth 7 <<< 5) }
  else { r with ramBank := (val &&& 0x03#8).setWidth 2 }

/-- R182: Type1 `mode`. -/
def Type1Regs.setMode (r : Type1Regs) (val : Byte) : Type1Regs := { r with mode := modeOf val }

/-- R183: Type2 `ram_enable`. -/
def Type2Regs.setRamEnable (r : Type2Regs) (val : Byte) : Type2Regs := { r with ramEnable := enableOf val }

/-- R184: Type2 `rom_bank`. -/
def Type2Regs.setRomBank (r : Type2Regs) (val : Byte) : Type2Regs :=
  { r with romBank := (val &&& 0x0F#8).setWidth 4 }

/-- R186: Type3 `ram_enable`. -/
def Type3Regs.setRamEnable (r : Type3Regs) (val : Byte) : Type3Regs := { r with ramEnable := enableOf val }

/-- R187: Type3 `rom_bank`. -/
def Type3Regs.setRomBank (r : Type3Regs) (val : Byte) : Type3Regs :=
  { r with romBank := (val &&& 0x7F#8).setWidth 7 }

/-- R188: Type3 `ram_bank`. -/
def Type3Regs.setRamBank (r : Type3Regs) (val : Byte) : Type3Regs :=
  { r with ramBank := (val &&& 0x03#8).setWidth 2 }

/-- R190: Type5 `ram_enable`. -/
def Type5Regs.setRamEnable (r : Type5Regs) (val : Byte) : Type5Regs := { r with ramEnable := enableOf val }

/-- R191: bits 7:0 of Type5 `rom_bank` are replaced, bit 8 kept. -/
def Type5Regs.setRomBankLo (r : Type5Regs) (val : Byte) : Type5Regs :=
  { r with romBank := (r.romBank &&& 0x100#9) ||| val.setWidth 9 }

/-- R192: bit 8 of Type5 `rom_bank` is replaced, bits 7:0 kept. -/
def Type5Regs.setRomBankHi (r : Type5Regs) (val : Byte) : Type5Regs :=
  { r with romBank := (r.romBank &&& 0x0FF#9) ||| ((val &&& 0x01#8).setWidth 9 <<< 8) }

/-- R193: Type5 `ram_bank`. -/
def Type5Regs.setRamBank (r : Type5Regs) (val : Byte) : Type5Regs :=
  { r with ramBank := (val &&& 0x0F#8).setWidth 4 }

/-- The sub-ranges of the control range (R88). -/
inductive ControlRange where
  | r0000
  | r2000
  | r3000
  | r4000
  | r6000
  deriving DecidableEq, Repr

/-- The control-register decode: `addr[14:13]`, and `addr[12]` in `[0x2000, 0x4000)` (R88). -/
def controlRange (addr : Addr) : ControlRange :=
  match addr.getLsbD 14, addr.getLsbD 13 with
  | false, false => .r0000
  | false, true  => if addr.getLsbD 12 then .r3000 else .r2000
  | true,  false => .r4000
  | true,  true  => .r6000

/-- The Type1 cells (R179 to R182). -/
def Type1Regs.applyWrite (r : Type1Regs) (c : ControlRange) (val : Byte) : Type1Regs :=
  match c with
  | .r0000         => r.setRamEnable val
  | .r2000 | .r3000 => r.setRomBankLo val
  | .r4000         => r.setBankHi val
  | .r6000         => r.setMode val

/-- The Type2 cells (R183 to R185). -/
def Type2Regs.applyWrite (r : Type2Regs) (c : ControlRange) (val : Byte) : Type2Regs :=
  match c with
  | .r0000         => r.setRamEnable val
  | .r2000 | .r3000 => r.setRomBank val
  | .r4000 | .r6000 => r

/-- The Type3 cells (R186 to R189). -/
def Type3Regs.applyWrite (r : Type3Regs) (c : ControlRange) (val : Byte) : Type3Regs :=
  match c with
  | .r0000         => r.setRamEnable val
  | .r2000 | .r3000 => r.setRomBank val
  | .r4000         => r.setRamBank val
  | .r6000         => r

/-- The Type5 cells (R190 to R194). -/
def Type5Regs.applyWrite (r : Type5Regs) (c : ControlRange) (val : Byte) : Type5Regs :=
  match c with
  | .r0000 => r.setRamEnable val
  | .r2000 => r.setRomBankLo val
  | .r3000 => r.setRomBankHi val
  | .r4000 => r.setRamBank val
  | .r6000 => r

/-- `S[a] <- v`. -/
def storeCell (a : Nat) (v : Byte) (s : State) : State := { s with storage := s.storage.write a v }

/-- `io[i] <- v`. -/
def storeIo (i : Nat) (v : Byte) (s : State) : State := { s with io := s.io.write i v }

/-- `ApplyWrite(addr, val)` (R176): the None variant stores at the bus address itself (R177), a banked variant writes
one register or nothing and never stores (R195). -/
def applyWrite (addr : Addr) (val : Byte) (s : State) : State :=
  match s.bc with
  | .none    => storeCell addr.toNat val s
  | .type1 r => { s with bc := .type1 (r.applyWrite (controlRange addr) val) }
  | .type2 r => { s with bc := .type2 (r.applyWrite (controlRange addr) val) }
  | .type3 r => { s with bc := .type3 (r.applyWrite (controlRange addr) val) }
  | .type5 r => { s with bc := .type5 (r.applyWrite (controlRange addr) val) }

/-! ### Byte access -/

/-- The banked read at an effective index (R113, R59). -/
def readAtIndex (addr : Addr) (e : Nat) (s : State) : Except Fault Byte :=
  if effectiveAddr addr e < 0x10000 then .ok (s.storage.read (effectiveAddr addr e))
  else
    match s.params.oorPolicy with
    | .fault  => .error (.bankedReadOutOfRange addr e)
    | .wrap16 => .ok (s.storage.read (effectiveAddr addr e % 0x10000))

/-- `BankedRead(addr)` (R113). -/
def bankedRead (addr : Addr) (s : State) : Except Fault Byte := readAtIndex addr (effectiveIndex s) s

/-- `ReadByte` without the test of the gate: the region's read alone (R110, R164). -/
def ungatedRead (addr : Addr) (s : State) : Except Fault Byte :=
  match region addr with
  | .low    => .ok (s.storage.read addr.toNat)
  | .banked => bankedRead addr s
  | .high   => .ok (s.storage.read addr.toNat)
  | .io     => .ok (s.io.read (ioIndex addr))
  | .ie     => .ok s.ie

/-- What a gated read returns (R111). -/
def gateByte : Byte := 0xFF#8

/-- `ReadByte(addr)` (R110): the gate first, then the region. -/
def readByte (addr : Addr) (s : State) : Except Fault Byte :=
  if s.tip then .ok gateByte else ungatedRead addr s

/-- `WriteByte` without the test of the gate (R117). -/
def ungatedWrite (addr : Addr) (val : Byte) (s : State) : State :=
  match region addr with
  | .low | .banked => applyWrite addr val s
  | .high          => storeCell addr.toNat val s
  | .io            => storeIo (ioIndex addr) val s
  | .ie            => { s with ie := val }

/-- `WriteByte(addr, val)` (R117): a gated write is dropped (R118). -/
def writeByte (addr : Addr) (val : Byte) (s : State) : State :=
  if s.tip then s else ungatedWrite addr val s

/-! ### Word access -/

/-- Two byte reads, the low one first (R130, decision D17). -/
def readPair (addr : Addr) (s : State) : Except Fault Word :=
  match readByte addr s with
  | .error f => .error f
  | .ok lo   =>
    match readByte (secondAddr addr) s with
    | .error f => .error f
    | .ok hi   => .ok (wordOf hi lo)

/-- Two byte writes, the low one first: the second is decoded against the state the first one left (R131). -/
def writePair (addr : Addr) (w : Word) (s : State) : State :=
  writeByte (secondAddr addr) (hiByte w) (writeByte addr (loByte w) s)

/-- Whether a word access at this address is the one the parameter `WORD_WRAP` stops (R132). -/
def wordStops (addr : Addr) (s : State) : Bool :=
  addr == 0xFFFF#16 && s.params.wordWrap == .fault

/-- `ReadWord(addr)` (R130, R132). -/
def readWord (addr : Addr) (s : State) : Except Fault Word :=
  if wordStops addr s then .error (.wordAddressWrap .read) else readPair addr s

/-- `WriteWord(addr, val)` (R131, R132): under `WORD_WRAP = Fault` not even the low byte is written. -/
def writeWord (addr : Addr) (w : Word) (s : State) : Except Fault State :=
  if wordStops addr s then .error (.wordAddressWrap .write) else .ok (writePair addr w s)

/-! ### Block transfer (R160) -/

/-- `CopyRead`: through the gate, or past it (R160, R164). -/
def copyRead (addr : Addr) (s : State) : Except Fault Byte :=
  match s.params.dmaMode with
  | .selfBlocking => readByte addr s
  | .bypass       => ungatedRead addr s

/-- `CopyWrite`: through the gate, or straight into storage (R160, R164). -/
def copyWrite (addr : Addr) (v : Byte) (s : State) : State :=
  match s.params.dmaMode with
  | .selfBlocking => writeByte addr v s
  | .bypass       => storeCell addr.toNat v s

/-- One iteration of the loop: a read, then a write (R162, decision D16). -/
def copyStep (page : Byte) (i : Nat) (s : State) : Except Fault State :=
  match copyRead (dmaSource page i) s with
  | .error f => .error f
  | .ok v    => .ok (copyWrite (dmaDest i) v s)

/-- `n` iterations from index `i` on, in ascending order (R162). -/
def copyLoop (page : Byte) : Nat → Nat → State → Except Fault State
  | 0,     _, s => .ok s
  | n + 1, i, s =>
    match copyStep page i s with
    | .error f => .error f
    | .ok s'   => copyLoop page n (i + 1) s'

/-- `DMA_LEN`: 160 iterations (R162). -/
def dmaLen : Nat := 160

/-- `DmaTransfer(p)` (R160): dropped while a transfer is in progress (R161); else the flag is set, the bytes are
copied, and the flag is cleared. -/
def dmaTransfer (page : Byte) (s : State) : Except Fault State :=
  if s.tip then .ok s
  else
    match copyLoop page dmaLen 0 { s with tip := true } with
    | .error f => .error f
    | .ok s'   => .ok { s' with tip := false }

/-! ### Interrupts -/

/-- The index of `IF` in `io` (R35). -/
def ifIndex : Nat := 0x0F

/-- `TriggerInterrupt(kind)` (R152): nothing unless the kind is enabled. -/
def triggerInterrupt (k : Kind) (s : State) : State :=
  if kindEnabled s.ie k then storeIo ifIndex (s.io.read ifIndex ||| ifMask s.params.ifMode k) s else s

/-! ### Answering -/

/-- A next state with a response (R95). -/
def respond (r : Response) (s : State) : Host.Outcome State Fault Refusal := .next { s with rsp := r }

/-- The outcome of a byte read: the state is left as it was (R56). -/
def respondByte (r : Except Fault Byte) (s : State) : Host.Outcome State Fault Refusal :=
  match r with
  | .ok v    => respond (.byte v) s
  | .error f => .fault f

/-- The outcome of a word read. -/
def respondWord (r : Except Fault Word) (s : State) : Host.Outcome State Fault Refusal :=
  match r with
  | .ok v    => respond (.word v) s
  | .error f => .fault f

/-- The outcome of an operation that returns nothing: the unit response (R95). -/
def respondUnit (r : Except Fault State) : Host.Outcome State Fault Refusal :=
  match r with
  | .ok s    => respond .unit s
  | .error f => .fault f

/-- `rsp_data[15:0]`: a byte is widened with zeros (R95). -/
def rspData : Response → Option Word
  | .unit   => Option.none
  | .byte v => some (v.setWidth 16)
  | .word v => some v
  | .flag _ => Option.none

/-- `rsp_flag` (R95). -/
def rspFlag : Response → Option Bool
  | .unit   => Option.none
  | .byte _ => Option.none
  | .word _ => Option.none
  | .flag b => some b

/-! ### Rows that share a command's words (R84, log 8) -/

/-- A `read_byte` row of one region: with the gate open and the address in the row's region, the row's own byte; in every
other case what the command `read_byte` does. -/
def readRow (reg : Region) (own : Except Fault Byte) (addr : Addr) (s : State) : Host.Outcome State Fault Refusal :=
  if !s.tip && region addr == reg then respondByte own s else respondByte (readByte addr s) s

/-- A `write_byte` row: with the gate open and the row selected, the row's own effect; in every other case what the
command `write_byte` does. -/
def writeRow (selected : Bool) (own : State) (addr : Addr) (val : Byte) (s : State) :
    Host.Outcome State Fault Refusal :=
  if !s.tip && selected then respond .unit own else respond .unit (writeByte addr val s)

/-- A control row selected by its sub-range of addresses, with its own new controller record. -/
def controlRow (lo hi : Nat) (own : Controller) (addr : Addr) (val : Byte) (s : State) :
    Host.Outcome State Fault Refusal :=
  writeRow (addr.inRange lo hi) { s with bc := own } addr val s

/-- A `resolve` row: the banked read at the row's own effective index. -/
def resolveRow (e : Nat) (addr : Addr) (s : State) : Host.Outcome State Fault Refusal :=
  readRow .banked (readAtIndex addr e s) addr s

/-- The command `write_byte`, for a control row of another variant than the instance's. -/
def otherVariantWrite (addr : Addr) (val : Byte) (s : State) : Host.Outcome State Fault Refusal :=
  respond .unit (writeByte addr val s)

/-- The command `read_byte`, for a `resolve` row of another variant than the instance's. -/
def otherVariantRead (addr : Addr) (s : State) : Host.Outcome State Fault Refusal :=
  respondByte (readByte addr s) s

/-! ### Outside the operations -/

/-- Construction of an instance (R230): the loader's parameters stay, and so do the requests the outside has yet to
present (log 9). -/
def constructInstance (v : Variant) (s : State) : Host.Outcome State Fault Refusal :=
  .next { State.construct s.params v with pending := s.pending }

/-- What is answered where nothing is decoded (R214, R231). -/
def refuseDecode : DecodeError → Host.Outcome State Fault Refusal
  | .invalidKind w        => .refused (.invalidCommand w)
  | .malformedVariant tag => .refused (.malformedVariant tag)

/-- The harness port's force function: it sets `TIP` and nothing else (R223). Its observe function is reading the
state. -/
def State.forceTip (b : Bool) (s : State) : State := { s with tip := b }

/-- The state with a request presented next, before those already waiting. -/
def State.present (r : Request) (s : State) : State := { s with pending := r :: s.pending }

end Sys2Proof.Machine
end

