-- ==== Sys2Proof/Machine/BankSelect.lean ====
section
/-! DEFINITION. `set_bank` (spec/42_bank_select.md). -/

namespace Sys2Proof.Machine

open Sys2Proof

/-- `set_bank(bank)`: `AB <- bank`, all 8 bits and nothing else (R140), whatever `TIP` holds (R142). -/
def execSetBank (bank : Byte) (s : State) : Host.Outcome State Fault Refusal :=
  respond .unit { s with ab := bank }

end Sys2Proof.Machine
end

