-- ==== Sys2Proof/Machine/BlockTransfer.lean ====
section
/-! DEFINITION. `dma_transfer` (spec/44_block_transfer.md). -/

namespace Sys2Proof.Machine

open Sys2Proof

/-- `dma_transfer(source_page)` (R160 to R164). -/
def execDmaTransfer (sourcePage : Byte) (s : State) : Host.Outcome State Fault Refusal :=
  respondUnit (dmaTransfer sourcePage s)

end Sys2Proof.Machine
end

