-- ==== Sys2Proof/Machine/ByteAccess.lean ====
section
/-! DEFINITION. `read_byte` and `write_byte`, and their REGION rows (spec/40_byte_access.md). -/

namespace Sys2Proof.Machine

open Sys2Proof

/-- `read_byte(addr)` (R110). -/
def execReadByte (addr : Addr) (s : State) : Host.Outcome State Fault Refusal :=
  respondByte (readByte addr s) s

/-- `write_byte(addr, val)` (R117). -/
def execWriteByte (addr : Addr) (val : Byte) (s : State) : Host.Outcome State Fault Refusal :=
  respond .unit (writeByte addr val s)

/-- Row `read_byte.ie`: the latch `IE` (R116). -/
def execReadByteIe (addr : Addr) (s : State) : Host.Outcome State Fault Refusal :=
  readRow .ie (.ok s.ie) addr s

/-- Row `read_byte.io`: the I/O cell (R115). -/
def execReadByteIo (addr : Addr) (s : State) : Host.Outcome State Fault Refusal :=
  readRow .io (.ok (s.io.read (ioIndex addr))) addr s

/-- Row `read_byte.high`: the storage cell, unbanked (R114). -/
def execReadByteHigh (addr : Addr) (s : State) : Host.Outcome State Fault Refusal :=
  readRow .high (.ok (s.storage.read addr.toNat)) addr s

/-- Row `read_byte.banked`: the bank-adjusted read (R113). -/
def execReadByteBanked (addr : Addr) (s : State) : Host.Outcome State Fault Refusal :=
  readRow .banked (bankedRead addr s) addr s

/-- Row `read_byte.low`: the storage cell, never banked (R112). -/
def execReadByteLow (addr : Addr) (s : State) : Host.Outcome State Fault Refusal :=
  readRow .low (.ok (s.storage.read addr.toNat)) addr s

/-- Row `write_byte.ie`: all 8 bits of `IE` (R122). -/
def execWriteByteIe (addr : Addr) (val : Byte) (s : State) : Host.Outcome State Fault Refusal :=
  writeRow (region addr == .ie) { s with ie := val } addr val s

/-- Row `write_byte.io`: all 8 bits of the I/O cell (R121). -/
def execWriteByteIo (addr : Addr) (val : Byte) (s : State) : Host.Outcome State Fault Refusal :=
  writeRow (region addr == .io) (storeIo (ioIndex addr) val s) addr val s

/-- Row `write_byte.high`: the storage cell (R120). -/
def execWriteByteHigh (addr : Addr) (val : Byte) (s : State) : Host.Outcome State Fault Refusal :=
  writeRow (region addr == .high) (storeCell addr.toNat val s) addr val s

/-- Row `write_byte.ctl`: the write is forwarded to the bank controller, which alone decides (R119). -/
def execWriteByteCtl (addr : Addr) (val : Byte) (s : State) : Host.Outcome State Fault Refusal :=
  writeRow (region addr == .low || region addr == .banked) (applyWrite addr val s) addr val s

end Sys2Proof.Machine
end

