-- ==== Sys2Proof/Machine/Construct.lean ====
section
/-! DEFINITION. The STRAP rows: construction of an instance of a variant (spec/30_encoding.md R86,
spec/70_reset_and_hazards.md R230). -/

namespace Sys2Proof.Machine

open Sys2Proof

/-- Row `variant.none`: tag 0 (R86). -/
def execVariantNone (s : State) : Host.Outcome State Fault Refusal := constructInstance .none s

/-- Row `variant.type1`: tag 1 (R86). -/
def execVariantType1 (s : State) : Host.Outcome State Fault Refusal := constructInstance .type1 s

/-- Row `variant.type2`: tag 2 (R86). -/
def execVariantType2 (s : State) : Host.Outcome State Fault Refusal := constructInstance .type2 s

/-- Row `variant.type3`: tag 3 (R86). -/
def execVariantType3 (s : State) : Host.Outcome State Fault Refusal := constructInstance .type3 s

/-- Row `variant.type5`: tag 5 (R86). -/
def execVariantType5 (s : State) : Host.Outcome State Fault Refusal := constructInstance .type5 s

end Sys2Proof.Machine
end

