-- ==== Sys2Proof/Machine/ControllerRows.lean ====
section
/-! DEFINITION. The CTL and INTERNAL rows: each cell of `ApplyWrite` and each row of `Resolve`
(spec/45_bank_controller.md). A row runs in an instance of its own variant; in any other the same command word runs as
`write_byte` or `read_byte` does there (log 8). -/

namespace Sys2Proof.Machine

open Sys2Proof

/-- Row `apply_write.none`: the byte is stored at the bus address itself (R177). -/
def execApplyWriteNone (addr : Addr) (val : Byte) (s : State) : Host.Outcome State Fault Refusal :=
  match s.bc with
  | .none => writeRow (addr.inRange 0x0000 0x8000) (storeCell addr.toNat val s) addr val s
  | .type1 _ | .type2 _ | .type3 _ | .type5 _ => otherVariantWrite addr val s

/-- Row `apply_write.type1.ram_enable` (R179). -/
def execApplyWriteType1RamEnable (addr : Addr) (val : Byte) (s : State) : Host.Outcome State Fault Refusal :=
  match s.bc with
  | .type1 r => controlRow 0x0000 0x2000 (.type1 (r.setRamEnable val)) addr val s
  | .none | .type2 _ | .type3 _ | .type5 _ => otherVariantWrite addr val s

/-- Row `apply_write.type1.rom_bank_lo` (R180). -/
def execApplyWriteType1RomBankLo (addr : Addr) (val : Byte) (s : State) : Host.Outcome State Fault Refusal :=
  match s.bc with
  | .type1 r => controlRow 0x2000 0x4000 (.type1 (r.setRomBankLo val)) addr val s
  | .none | .type2 _ | .type3 _ | .type5 _ => otherVariantWrite addr val s

/-- Row `apply_write.type1.bank_hi` (R181). -/
def execApplyWriteType1BankHi (addr : Addr) (val : Byte) (s : State) : Host.Outcome State Fault Refusal :=
  match s.bc with
  | .type1 r => controlRow 0x4000 0x6000 (.type1 (r.setBankHi val)) addr val s
  | .none | .type2 _ | .type3 _ | .type5 _ => otherVariantWrite addr val s

/-- Row `apply_write.type1.mode` (R182). -/
def execApplyWriteType1Mode (addr : Addr) (val : Byte) (s : State) : Host.Outcome State Fault Refusal :=
  match s.bc with
  | .type1 r => controlRow 0x6000 0x8000 (.type1 (r.setMode val)) addr val s
  | .none | .type2 _ | .type3 _ | .type5 _ => otherVariantWrite addr val s

/-- Row `apply_write.type2.ram_enable` (R183). -/
def execApplyWriteType2RamEnable (addr : Addr) (val : Byte) (s : State) : Host.Outcome State Fault Refusal :=
  match s.bc with
  | .type2 r => controlRow 0x0000 0x2000 (.type2 (r.setRamEnable val)) addr val s
  | .none | .type1 _ | .type3 _ | .type5 _ => otherVariantWrite addr val s

/-- Row `apply_write.type2.rom_bank` (R184). -/
def execApplyWriteType2RomBank (addr : Addr) (val : Byte) (s : State) : Host.Outcome State Fault Refusal :=
  match s.bc with
  | .type2 r => controlRow 0x2000 0x4000 (.type2 (r.setRomBank val)) addr val s
  | .none | .type1 _ | .type3 _ | .type5 _ => otherVariantWrite addr val s

/-- Row `apply_write.type2.nop` (R185). -/
def execApplyWriteType2Nop (addr : Addr) (val : Byte) (s : State) : Host.Outcome State Fault Refusal :=
  match s.bc with
  | .type2 r => controlRow 0x4000 0x8000 (.type2 r) addr val s
  | .none | .type1 _ | .type3 _ | .type5 _ => otherVariantWrite addr val s

/-- Row `apply_write.type3.ram_enable` (R186). -/
def execApplyWriteType3RamEnable (addr : Addr) (val : Byte) (s : State) : Host.Outcome State Fault Refusal :=
  match s.bc with
  | .type3 r => controlRow 0x0000 0x2000 (.type3 (r.setRamEnable val)) addr val s
  | .none | .type1 _ | .type2 _ | .type5 _ => otherVariantWrite addr val s

/-- Row `apply_write.type3.rom_bank` (R187). -/
def execApplyWriteType3RomBank (addr : Addr) (val : Byte) (s : State) : Host.Outcome State Fault Refusal :=
  match s.bc with
  | .type3 r => controlRow 0x2000 0x4000 (.type3 (r.setRomBank val)) addr val s
  | .none | .type1 _ | .type2 _ | .type5 _ => otherVariantWrite addr val s

/-- Row `apply_write.type3.ram_bank` (R188). -/
def execApplyWriteType3RamBank (addr : Addr) (val : Byte) (s : State) : Host.Outcome State Fault Refusal :=
  match s.bc with
  | .type3 r => controlRow 0x4000 0x6000 (.type3 (r.setRamBank val)) addr val s
  | .none | .type1 _ | .type2 _ | .type5 _ => otherVariantWrite addr val s

/-- Row `apply_write.type3.nop` (R189). -/
def execApplyWriteType3Nop (addr : Addr) (val : Byte) (s : State) : Host.Outcome State Fault Refusal :=
  match s.bc with
  | .type3 r => controlRow 0x6000 0x8000 (.type3 r) addr val s
  | .none | .type1 _ | .type2 _ | .type5 _ => otherVariantWrite addr val s

/-- Row `apply_write.type5.ram_enable` (R190). -/
def execApplyWriteType5RamEnable (addr : Addr) (val : Byte) (s : State) : Host.Outcome State Fault Refusal :=
  match s.bc with
  | .type5 r => controlRow 0x0000 0x2000 (.type5 (r.setRamEnable val)) addr val s
  | .none | .type1 _ | .type2 _ | .type3 _ => otherVariantWrite addr val s

/-- Row `apply_write.type5.rom_bank_lo` (R191). -/
def execApplyWriteType5RomBankLo (addr : Addr) (val : Byte) (s : State) : Host.Outcome State Fault Refusal :=
  match s.bc with
  | .type5 r => controlRow 0x2000 0x3000 (.type5 (r.setRomBankLo val)) addr val s
  | .none | .type1 _ | .type2 _ | .type3 _ => otherVariantWrite addr val s

/-- Row `apply_write.type5.rom_bank_hi` (R192). -/
def execApplyWriteType5RomBankHi (addr : Addr) (val : Byte) (s : State) : Host.Outcome State Fault Refusal :=
  match s.bc with
  | .type5 r => controlRow 0x3000 0x4000 (.type5 (r.setRomBankHi val)) addr val s
  | .none | .type1 _ | .type2 _ | .type3 _ => otherVariantWrite addr val s

/-- Row `apply_write.type5.ram_bank` (R193). -/
def execApplyWriteType5RamBank (addr : Addr) (val : Byte) (s : State) : Host.Outcome State Fault Refusal :=
  match s.bc with
  | .type5 r => controlRow 0x4000 0x6000 (.type5 (r.setRamBank val)) addr val s
  | .none | .type1 _ | .type2 _ | .type3 _ => otherVariantWrite addr val s

/-- Row `apply_write.type5.nop` (R194). -/
def execApplyWriteType5Nop (addr : Addr) (val : Byte) (s : State) : Host.Outcome State Fault Refusal :=
  match s.bc with
  | .type5 r => controlRow 0x6000 0x8000 (.type5 r) addr val s
  | .none | .type1 _ | .type2 _ | .type3 _ => otherVariantWrite addr val s

/-- Row `resolve.none`: the banked read through this row of `Resolve` (R171). -/
def execResolveNone (addr : Addr) (s : State) : Host.Outcome State Fault Refusal :=
  match s.bc with
  | .none => resolveRow (requestedBank s) addr s
  | .type1 _ | .type2 _ | .type3 _ | .type5 _ => otherVariantRead addr s

/-- Row `resolve.type1`: the banked read through this row of `Resolve` (R172). -/
def execResolveType1 (addr : Addr) (s : State) : Host.Outcome State Fault Refusal :=
  match s.bc with
  | .type1 r => resolveRow (r.resolve (requestedBank s)) addr s
  | .none | .type2 _ | .type3 _ | .type5 _ => otherVariantRead addr s

/-- Row `resolve.type2`: the banked read through this row of `Resolve` (R173). -/
def execResolveType2 (addr : Addr) (s : State) : Host.Outcome State Fault Refusal :=
  match s.bc with
  | .type2 _ => resolveRow (resolveLowNibble (requestedBank s)) addr s
  | .none | .type1 _ | .type3 _ | .type5 _ => otherVariantRead addr s

/-- Row `resolve.type3`: the banked read through this row of `Resolve` (R174). -/
def execResolveType3 (addr : Addr) (s : State) : Host.Outcome State Fault Refusal :=
  match s.bc with
  | .type3 _ => resolveRow (requestedBank s) addr s
  | .none | .type1 _ | .type2 _ | .type5 _ => otherVariantRead addr s

/-- Row `resolve.type5`: the banked read through this row of `Resolve` (R175). -/
def execResolveType5 (addr : Addr) (s : State) : Host.Outcome State Fault Refusal :=
  match s.bc with
  | .type5 _ => resolveRow (requestedBank s) addr s
  | .none | .type1 _ | .type2 _ | .type3 _ => otherVariantRead addr s

end Sys2Proof.Machine
end

