-- ==== Sys2Proof/Machine/Interrupt.lean ====
section
/-! DEFINITION. `check_interrupt` and `trigger_interrupt` (spec/43_interrupt.md). Neither is gated by `TIP` (R155). -/

namespace Sys2Proof.Machine

open Sys2Proof

/-- `check_interrupt(kind)`: whether the kind is enabled; `IF` is not looked at (R151). -/
def execCheckInterrupt (kind : Kind) (s : State) : Host.Outcome State Fault Refusal :=
  respond (.flag (kindEnabled s.ie kind)) s

/-- `trigger_interrupt(kind)` (R152 to R154). -/
def execTriggerInterrupt (kind : Kind) (s : State) : Host.Outcome State Fault Refusal :=
  respond .unit (triggerInterrupt kind s)

end Sys2Proof.Machine
end

