-- ==== Sys2Proof/Machine/Invalid.lean ====
section
/-! DEFINITION. The reserved row of the opcode table (spec/30_encoding.md R92, spec/60_exceptions.md R214). -/

namespace Sys2Proof.Machine

open Sys2Proof

/-- Operation codes 8 to 15: `InvalidCommand(W)`, no state change, no response (R92, R214). -/
def execReserved (op : BitVec 4) (addr : Addr) (data : Word) (_s : State) : Host.Outcome State Fault Refusal :=
  .refused (.invalidCommand (Command.assemble op addr data))

end Sys2Proof.Machine
end

