-- ==== Sys2Proof/Machine/WordAccess.lean ====
section
/-! DEFINITION. `read_word` and `write_word` (spec/41_word_access.md). -/

namespace Sys2Proof.Machine

open Sys2Proof

/-- `read_word(addr)` (R130, R132). -/
def execReadWord (addr : Addr) (s : State) : Host.Outcome State Fault Refusal :=
  respondWord (readWord addr s) s

/-- `write_word(addr, val)` (R131, R132). -/
def execWriteWord (addr : Addr) (val : Word) (s : State) : Host.Outcome State Fault Refusal :=
  respondUnit (writeWord addr val s)

end Sys2Proof.Machine
end

