-- ==== Sys2Proof/Machine/Dispatch.lean ====
section
/-! DEFINITION. One arm per operation: a direct call of its meaning. -/

namespace Sys2Proof.Machine

def exec (i : Instr) (s : State) : Host.Outcome State Fault Refusal :=
  match i with
  -- CMD rows (R82)
  | .readByte addr => Sys2Proof.Machine.execReadByte addr s
  | .writeByte addr val => Sys2Proof.Machine.execWriteByte addr val s
  | .readWord addr => Sys2Proof.Machine.execReadWord addr s
  | .writeWord addr val => Sys2Proof.Machine.execWriteWord addr val s
  | .setBank bank => Sys2Proof.Machine.execSetBank bank s
  | .checkInterrupt kind => Sys2Proof.Machine.execCheckInterrupt kind s
  | .triggerInterrupt kind => Sys2Proof.Machine.execTriggerInterrupt kind s
  | .dmaTransfer sourcePage => Sys2Proof.Machine.execDmaTransfer sourcePage s
  | .reserved op addr data => Sys2Proof.Machine.execReserved op addr data s
  -- REGION rows (R87)
  | .readByteIe addr => Sys2Proof.Machine.execReadByteIe addr s
  | .readByteIo addr => Sys2Proof.Machine.execReadByteIo addr s
  | .readByteHigh addr => Sys2Proof.Machine.execReadByteHigh addr s
  | .readByteBanked addr => Sys2Proof.Machine.execReadByteBanked addr s
  | .readByteLow addr => Sys2Proof.Machine.execReadByteLow addr s
  | .writeByteIe addr val => Sys2Proof.Machine.execWriteByteIe addr val s
  | .writeByteIo addr val => Sys2Proof.Machine.execWriteByteIo addr val s
  | .writeByteHigh addr val => Sys2Proof.Machine.execWriteByteHigh addr val s
  | .writeByteCtl addr val => Sys2Proof.Machine.execWriteByteCtl addr val s
  -- CTL rows (R88)
  | .applyWriteNone addr val => Sys2Proof.Machine.execApplyWriteNone addr val s
  | .applyWriteType1RamEnable addr val => Sys2Proof.Machine.execApplyWriteType1RamEnable addr val s
  | .applyWriteType1RomBankLo addr val => Sys2Proof.Machine.execApplyWriteType1RomBankLo addr val s
  | .applyWriteType1BankHi addr val => Sys2Proof.Machine.execApplyWriteType1BankHi addr val s
  | .applyWriteType1Mode addr val => Sys2Proof.Machine.execApplyWriteType1Mode addr val s
  | .applyWriteType2RamEnable addr val => Sys2Proof.Machine.execApplyWriteType2RamEnable addr val s
  | .applyWriteType2RomBank addr val => Sys2Proof.Machine.execApplyWriteType2RomBank addr val s
  | .applyWriteType2Nop addr val => Sys2Proof.Machine.execApplyWriteType2Nop addr val s
  | .applyWriteType3RamEnable addr val => Sys2Proof.Machine.execApplyWriteType3RamEnable addr val s
  | .applyWriteType3RomBank addr val => Sys2Proof.Machine.execApplyWriteType3RomBank addr val s
  | .applyWriteType3RamBank addr val => Sys2Proof.Machine.execApplyWriteType3RamBank addr val s
  | .applyWriteType3Nop addr val => Sys2Proof.Machine.execApplyWriteType3Nop addr val s
  | .applyWriteType5RamEnable addr val => Sys2Proof.Machine.execApplyWriteType5RamEnable addr val s
  | .applyWriteType5RomBankLo addr val => Sys2Proof.Machine.execApplyWriteType5RomBankLo addr val s
  | .applyWriteType5RomBankHi addr val => Sys2Proof.Machine.execApplyWriteType5RomBankHi addr val s
  | .applyWriteType5RamBank addr val => Sys2Proof.Machine.execApplyWriteType5RamBank addr val s
  | .applyWriteType5Nop addr val => Sys2Proof.Machine.execApplyWriteType5Nop addr val s
  -- INTERNAL rows (R170): the banked read that calls the row's `Resolve`
  | .resolveNone addr => Sys2Proof.Machine.execResolveNone addr s
  | .resolveType1 addr => Sys2Proof.Machine.execResolveType1 addr s
  | .resolveType2 addr => Sys2Proof.Machine.execResolveType2 addr s
  | .resolveType3 addr => Sys2Proof.Machine.execResolveType3 addr s
  | .resolveType5 addr => Sys2Proof.Machine.execResolveType5 addr s
  -- STRAP rows (R86): construction of an instance of the variant
  | .variantNone => Sys2Proof.Machine.execVariantNone s
  | .variantType1 => Sys2Proof.Machine.execVariantType1 s
  | .variantType2 => Sys2Proof.Machine.execVariantType2 s
  | .variantType3 => Sys2Proof.Machine.execVariantType3 s
  | .variantType5 => Sys2Proof.Machine.execVariantType5 s

end Sys2Proof.Machine
end

