-- ==== Sys2Proof/Machine/Step.lean ====
section
/-! DEFINITION. One step: the next request is taken, decoded and run as one atomic operation (spec/00_scope.md R8,
spec/30_encoding.md R80). -/

namespace Sys2Proof.Machine

open Sys2Proof

/-- One step. With no request to present the block stays as it is: it acts only when an operation is issued (R8,
R80, log 6). A request that nothing is decoded from changes no state and is refused by name (R92, R214, R231). -/
def step (s : State) : Host.Outcome State Fault Refusal :=
  match s.pending with
  | []        => .next s
  | r :: rest =>
    match decode r with
    | .ok i    => exec i { s with pending := rest }
    | .error e => refuseDecode e

/-- The state with the request of `nbits` bits `w` presented next: the driver issues that command, or the loader
straps that variant tag (log 6, log 14). -/
def State.withFetchWord (s : State) (nbits w : Nat) : State := s.present (presented nbits w)

end Sys2Proof.Machine
end

