-- ==== Sys2Proof/Safety.lean ====
section
/-! DEFINITION. The terms that claims are stated in: the invariant of a run, which operations construct an instance,
which commands write a range of bus addresses, and what a byte read gives, written from the address map of
spec/20_memory.md R51 in numbers rather than from the region decode. -/

namespace Sys2Proof

/-- The operations that construct an instance (R86, R230). -/
def Instr.isStrap : Instr → Bool
  | .variantNone | .variantType1 | .variantType2 | .variantType3 | .variantType5 => true
  | _ => false

/-- The operations that are a byte write or a word write to an address in `[lo, hi)`. A word write's second address is
taken modulo 0x10000 (R132). -/
def Instr.writesIn (lo hi : Nat) (i : Instr) : Bool :=
  match i.command with
  | .writeByte a _ => a.inRange lo hi
  | .writeWord a _ => a.inRange lo hi || (a + 1#16).inRange lo hi
  | _ => false

end Sys2Proof

namespace Sys2Proof.Machine

open Sys2Proof

/-- Both byte arrays, and the loader's image, are in canonical form. -/
def State.wf (s : State) : Bool :=
  Memory.wf 0x10000 s.storage && Memory.wf 0x100 s.io && Memory.wf 0x10000 s.params.initStorage

/-- The invariant of a driver's run: canonical arrays, and the gate open between operations (R25). -/
abbrev State.Inv (s : State) : Prop := s.wf = true ∧ s.tip = false

/-- What a read at the bus address `a` gives with the gate open, by the address map of R51; in the banked window the
effective address is taken modulo 0x10000, which matters only under `OOR_POLICY = Wrap16` (R59). -/
def busByte (s : State) (a : Nat) : Byte :=
  if a < 0x4000 then s.storage.read a
  else if a < 0x8000 then s.storage.read ((a + effectiveIndex s * 0x4000) % 0x10000)
  else if a < 0xFF00 then s.storage.read a
  else if a < 0xFFFF then s.io.read (a - 0xFF00)
  else s.ie

/-- The read at the bus address `a` has a value: it is outside the banked window, or its effective address names a cell,
or `OOR_POLICY = Wrap16` gives it one (R59, R113). -/
abbrev Readable (s : State) (a : Nat) : Prop :=
  a < 0x4000 ∨ 0x8000 ≤ a ∨ effectiveIndex s ≤ 2 ∨ s.params.oorPolicy = .wrap16

/-- `ram_enable`, of a variant that has it (R28 to R31). -/
def ramEnableOf : Controller → Option Bool
  | .none    => Option.none
  | .type1 r => some r.ramEnable
  | .type2 r => some r.ramEnable
  | .type3 r => some r.ramEnable
  | .type5 r => some r.ramEnable

/-- Two controllers that no read can tell apart under `BANK_AUTHORITY = ActiveBank`: the same variant and, under Type1,
the same `mode` and `ram_bank` (R39, R196). -/
def sameReads : Controller → Controller → Bool
  | .none,    .none    => true
  | .type1 r, .type1 q => r.mode == q.mode && r.ramBank == q.ramBank
  | .type2 _, .type2 _ => true
  | .type3 _, .type3 _ => true
  | .type5 _, .type5 _ => true
  | _,        _        => false

/-- `read_byte` and every row that shares its words. -/
def readRows (a : Addr) : List Instr :=
  [.readByte a, .readByteIe a, .readByteIo a, .readByteHigh a, .readByteBanked a, .readByteLow a,
   .resolveNone a, .resolveType1 a, .resolveType2 a, .resolveType3 a, .resolveType5 a]

/-- `write_byte` and every row that shares its words. -/
def writeRows (a : Addr) (v : Byte) : List Instr :=
  [.writeByte a v, .writeByteIe a v, .writeByteIo a v, .writeByteHigh a v, .writeByteCtl a v, .applyWriteNone a v,
   .applyWriteType1RamEnable a v, .applyWriteType1RomBankLo a v, .applyWriteType1BankHi a v, .applyWriteType1Mode a v,
   .applyWriteType2RamEnable a v, .applyWriteType2RomBank a v, .applyWriteType2Nop a v,
   .applyWriteType3RamEnable a v, .applyWriteType3RomBank a v, .applyWriteType3RamBank a v, .applyWriteType3Nop a v,
   .applyWriteType5RamEnable a v, .applyWriteType5RomBankLo a v, .applyWriteType5RomBankHi a v,
   .applyWriteType5RamBank a v, .applyWriteType5Nop a v]

end Sys2Proof.Machine
end

