-- ==== Sys2Proof/Certificates/Slice0/Obligations.lean ====
section
/-! DEFINITION. The statements for the provers. Each docstring names the rule or section of spec/ that it formalises, and
says where it rests on a decision of the spec's own (D<n>, spec/92_eei_decisions.md) or of this model (log <n>). A
statement about the next state gives that state whole, so its frame is part of it; where storage or `io` is written, the
frame is said through the read of one cell. What a statement says of the fields `pending` and `rsp` is about the model's own
fields (log 6, log 7). -/

open Sys2Proof Sys2Proof.Machine

/-! ### Reset and steps -/

/-- R40, R41, R230: construction with any parameters and any variant leaves the gate open, every `io` cell, `IE` and `AB`
zero, the controller's registers zero, Type1 `mode` at RESET_MODE and the storage at INIT_STORAGE. The zero values are the
spec's decisions D13 and D14; State.reset is the None instance with the default parameters (log 1 to 4). -/
def Obligations.ConstructionLeavesTheResetValues : Prop :=
  (∀ (p : Params) (v : Variant),
    (State.construct p v).tip = false ∧ (State.construct p v).ie = 0#8 ∧ (State.construct p v).ab = 0#8 ∧
    (∀ i, (State.construct p v).io.read i = 0#8) ∧ (State.construct p v).storage = p.initStorage ∧
    (State.construct p v).params = p ∧ (State.construct p v).bc.variant = v) ∧
  (∀ (p : Params),
    (State.construct p .type1).bc = .type1 ⟨0#7, 0#2, false, p.resetMode⟩ ∧
    (State.construct p .type2).bc = .type2 ⟨0#4, false⟩ ∧
    (State.construct p .type3).bc = .type3 ⟨0#7, 0#2, false⟩ ∧
    (State.construct p .type5).bc = .type5 ⟨0#9, 0#4, false⟩ ∧
    (State.construct p .none).bc = .none) ∧
  State.reset = State.construct Params.default .none

/-- The reset state meets the invariant: canonical arrays, and the gate open (R25, R41). -/
def Obligations.ResetMeetsTheRunInvariant : Prop := State.reset.Inv

/-- R25, R32: from every state in which the arrays are canonical and the gate is open, a step gives such a state again; in
particular no operation leaves the gate closed behind it. -/
def Obligations.StepKeepsTheRunInvariant : Prop :=
  ∀ s t : State, s.Inv → step s = .next t → t.Inv

/-- R8, R80: a step presents the next request and runs the operation it decodes to, as `exec` does; `withFetchWord` presents
a word so (log 14); and with no request to present the block stays as it is (log 6). -/
def Obligations.StepRunsTheDecodedRequest : Prop :=
  (∀ (s : State) (r : Request) (rest : List Request) (i : Instr),
    s.pending = r :: rest → decode r = .ok i → step s = exec i { s with pending := rest }) ∧
  (∀ (s : State) (nbits w : Nat) (i : Instr),
    decodeTableWord nbits w = some i → step (s.withFetchWord nbits w) = exec i s) ∧
  (∀ s : State, s.pending = [] → step s = .next s)

/-! ### Encoding -/

/-- R81 to R86, R92: words written out from the encoding table (D2 to D4, D15) decode to the operations they stand for.
That a table word comes as 40 bits at the command port or 8 bits at the strap is this model's choice (log 14). -/
def Obligations.DecodesWordsOfTheEncodingTable : Prop :=
  decodeTableWord 40 0x0C0000000 = some (.readByte 0xC000#16) ∧
  decodeTableWord 40 0x1C0000012 = some (.writeByte 0xC000#16 0x12#8) ∧
  decodeTableWord 40 0x2FEFF0000 = some (.readWord 0xFEFF#16) ∧
  decodeTableWord 40 0x3FEFFAABB = some (.writeWord 0xFEFF#16 0xAABB#16) ∧
  decodeTableWord 40 0x400000001 = some (.setBank 0x01#8) ∧
  decodeTableWord 40 0x500000002 = some (.checkInterrupt .timer) ∧
  decodeTableWord 40 0x600000004 = some (.triggerInterrupt .joypad) ∧
  decodeTableWord 40 0x7000000C0 = some (.dmaTransfer 0xC0#8) ∧
  decodeTableWord 40 0xF1234ABCD = some (.reserved 0xF#4 0x1234#16 0xABCD#16) ∧
  decodeTableWord 8 0x5 = some .variantType5

/-- R81 to R86: every well-formed operation, with every operand at every value, decodes from its own encoding to the command
its words are, and whatever the decoder answers is a well-formed operation that is its own command: no operand bit is
dropped (D2 to D4; the rows that share a command's words, log 8). -/
def Obligations.EncodeThenDecodeGivesTheCommand : Prop :=
  (∀ i : Instr, i.wellFormed = true → decode (encode i) = .ok i.command) ∧
  (∀ (r : Request) (i : Instr), decode r = .ok i → i.command = i ∧ i.wellFormed = true)

/-- R84: encoding what a command word decodes to gives that word back with every ignored bit cleared, the canonical
encoding; and a variant tag comes back as it was (D2, D3). -/
def Obligations.DecodeThenEncodeIsCanonical : Prop :=
  (∀ (w : Command) (i : Instr), decode (.command w) = .ok i → encode i = .command (w &&& usedBits i)) ∧
  (∀ (tag : StrapTag) (i : Instr), decode (.strap tag) = .ok i → encode i = .strap tag)

/-- R83, R84: two command words that differ only in the bits an operation ignores are the same command. The bits used are
`op` and: `addr` (read_byte, read_word), `addr` and `data[7:0]` (write_byte), all (write_word), `data[7:0]` (set_bank,
dma_transfer), `data[2:0]` (the interrupt operations) (D2). -/
def Obligations.IgnoredBitsDoNotDecode : Prop :=
  ∀ (w w' : Command) (i : Instr), decode (.command w) = .ok i →
    w &&& usedBits i = w' &&& usedBits i → decode (.command w') = .ok i

/-- R92, R214: a command word is refused as `InvalidCommand(W)` exactly when its `op` is 8 to 15, or its `op` is 5 or 6 and
its kind code 5 to 7 (D15). -/
def Obligations.ExactlyTheInvalidWordsAreRefused : Prop :=
  ∀ (s : State) (w : Command) (rest : List Request), s.pending = .command w :: rest →
    (step s = .refused (.invalidCommand w) ↔
      8 ≤ w.toNat / 2 ^ 32 ∨ ((w.toNat / 2 ^ 32 = 5 ∨ w.toNat / 2 ^ 32 = 6) ∧ 5 ≤ w.toNat % 8))

/-- R92, R214: the reserved row ends in `InvalidCommand` of its own word, in every state (D15). -/
def Obligations.ReservedRowIsInvalidCommand : Prop :=
  ∀ (op : BitVec 4) (a : Addr) (d : Word) (s : State),
    exec (.reserved op a d) s = .refused (.invalidCommand (BitVec.ofNat 36 (op.toNat * 2 ^ 32 + a.toNat * 2 ^ 16 + d.toNat)))

/-- R86, R92, R230, R231: the tags 4, 6 and 7 construct nothing; 0, 1, 2, 3 and 5 construct an instance of None, Type1,
Type2, Type3 and Type5 (D3, D15). That the new instance keeps the parameters and the requests still to present is this
model's choice (log 9), not a rule. -/
def Obligations.MalformedVariantTagsConstructNothing : Prop :=
  ∀ (s : State) (tag : StrapTag) (rest : List Request), s.pending = .strap tag :: rest →
    (tag.toNat = 4 ∨ tag.toNat = 6 ∨ tag.toNat = 7 → step s = .refused (.malformedVariant tag)) ∧
    (tag.toNat = 0 → step s = .next { State.construct s.params .none with pending := rest }) ∧
    (tag.toNat = 1 → step s = .next { State.construct s.params .type1 with pending := rest }) ∧
    (tag.toNat = 2 → step s = .next { State.construct s.params .type2 with pending := rest }) ∧
    (tag.toNat = 3 → step s = .next { State.construct s.params .type3 with pending := rest }) ∧
    (tag.toNat = 5 → step s = .next { State.construct s.params .type5 with pending := rest })

/-- R84, R87, R88, R93: every row of the opcode table acts, in every state, as the command its words are. For the 31 REGION,
CTL and INTERNAL rows this is the agreement of the row's own effect with the dispatch by address and variant (log 8). -/
def Obligations.EveryRowActsAsItsCommand : Prop :=
  ∀ (i : Instr) (s : State), exec i s = exec i.command s

/-! ### Address decode -/

/-- R87: the region of a command word's address, as the priority decode over the word's masks and as five disjoint ranges
that cover all 65536 addresses; LOW and BANKED together are the addresses with bit 15 clear. -/
def Obligations.RegionDecodeIsTotalAndDisjoint : Prop :=
  (∀ w : Command, region (w.extractLsb' 16 16) =
    if w &&& 0x0FFFF0000#36 = 0x0FFFF0000#36 then .ie
    else if w &&& 0x0FF000000#36 = 0x0FF000000#36 then .io
    else if w &&& 0x080000000#36 = 0x080000000#36 then .high
    else if w &&& 0x0C0000000#36 = 0x040000000#36 then .banked
    else .low) ∧
  (∀ a : Addr,
    (region a = .low ↔ a.toNat < 0x4000) ∧
    (region a = .banked ↔ 0x4000 ≤ a.toNat ∧ a.toNat < 0x8000) ∧
    (region a = .high ↔ 0x8000 ≤ a.toNat ∧ a.toNat < 0xFF00) ∧
    (region a = .io ↔ 0xFF00 ≤ a.toNat ∧ a.toNat < 0xFFFF) ∧
    (region a = .ie ↔ a.toNat = 0xFFFF) ∧
    (region a = .low ∨ region a = .banked ↔ a.getLsbD 15 = false))

/-! ### Byte reads -/

/-- R111: while `TIP` is true, `read_byte` (and every row that shares its words) returns 0xFF at every address and changes
nothing. -/
def Obligations.GatedReadsReturnFF : Prop :=
  ∀ (s : State) (a : Addr), s.tip = true →
    ∀ i ∈ readRows a, exec i s = .next { s with rsp := .byte 0xFF#8 }

/-- R112, R114: with the gate open, a read in LOW or in HIGH returns the storage cell with the address's own index, whatever
the bank registers, the variant and `ram_enable` hold. -/
def Obligations.LowAndHighReadsAreDirect : Prop :=
  (∀ (s : State) (a : Addr), s.tip = false → a.toNat < 0x4000 →
    ∀ i ∈ [Instr.readByte a, .readByteLow a], exec i s = .next { s with rsp := .byte (s.storage.read a.toNat) }) ∧
  (∀ (s : State) (a : Addr), s.tip = false → 0x8000 ≤ a.toNat → a.toNat < 0xFF00 →
    ∀ i ∈ [Instr.readByte a, .readByteHigh a], exec i s = .next { s with rsp := .byte (s.storage.read a.toNat) })

/-- R115, R116: with the gate open, a read in the I/O window returns all 8 bits of the I/O cell, and a read at 0xFFFF all 8
bits of `IE`; neither has a side effect. -/
def Obligations.IoAndIeReadsReturnTheRegister : Prop :=
  (∀ (s : State) (a : Addr), s.tip = false → 0xFF00 ≤ a.toNat → a.toNat < 0xFFFF →
    ∀ i ∈ [Instr.readByte a, .readByteIo a], exec i s = .next { s with rsp := .byte (s.io.read (a.toNat - 0xFF00)) }) ∧
  (∀ s : State, s.tip = false →
    ∀ i ∈ [Instr.readByte 0xFFFF#16, .readByteIe 0xFFFF#16], exec i s = .next { s with rsp := .byte s.ie })

/-- R58, R113: with the gate open, a read in the banked window whose effective index is 0, 1 or 2 returns the storage cell at
the effective address (requested bank: D6). -/
def Obligations.BankedReadsReturnTheBankedCell : Prop :=
  ∀ (s : State) (a : Addr), s.tip = false → 0x4000 ≤ a.toNat → a.toNat < 0x8000 → effectiveIndex s ≤ 2 →
    ∀ i ∈ [Instr.readByte a, .readByteBanked a, .resolveNone a, .resolveType1 a, .resolveType2 a, .resolveType3 a,
      .resolveType5 a],
      exec i s = .next { s with rsp := .byte (s.storage.read (a.toNat + effectiveIndex s * 0x4000)) }

/-- R59, R113, R212: with the gate open, a read in the banked window whose effective index is 3 or more ends in
`BankedReadOutOfRange(addr, e)` under `OOR_POLICY = Fault`, and under `Wrap16` returns the cell at the effective address
modulo 0x10000 (D8). -/
def Obligations.BankedReadsBeyondStorage : Prop :=
  ∀ (s : State) (a : Addr), s.tip = false → 0x4000 ≤ a.toNat → a.toNat < 0x8000 → 3 ≤ effectiveIndex s →
    ∀ i ∈ [Instr.readByte a, .readByteBanked a, .resolveNone a, .resolveType1 a, .resolveType2 a, .resolveType3 a,
      .resolveType5 a],
      (s.params.oorPolicy = .fault → exec i s = .fault (.bankedReadOutOfRange a (effectiveIndex s))) ∧
      (s.params.oorPolicy = .wrap16 →
        exec i s = .next { s with rsp := .byte (s.storage.read ((a.toNat + effectiveIndex s * 0x4000) % 0x10000)) })

/-- R171 to R175: the effective index of each variant, in arithmetic. `(r & 0x03) | (ram_bank << 5)` is
`r % 4 + 32 * ram_bank`, and `rom_bank` appears in no row. -/
def Obligations.ResolveIsTheVariantsRow : Prop :=
  ∀ requested : Nat,
    resolve .none requested = requested ∧
    (∀ r : Type1Regs, resolve (.type1 r) requested =
      if r.mode then requested % 32 else requested % 4 + 32 * r.ramBank.toNat) ∧
    (∀ r : Type2Regs, resolve (.type2 r) requested = requested % 16) ∧
    (∀ r : Type3Regs, resolve (.type3 r) requested = requested) ∧
    (∀ r : Type5Regs, resolve (.type5 r) requested = requested)

/-- R113, R171 to R175: each `resolve` row, in an instance of its own variant with the gate open, reads the storage cell at
`addr + e * 0x4000` for the row's own `e`, where that lies in storage (requested bank: D6). -/
def Obligations.ResolveRowsReadAtTheirIndex : Prop :=
  ∀ (s : State) (a : Addr) (e : Nat), s.tip = false → 0x4000 ≤ a.toNat → a.toNat < 0x8000 →
    a.toNat + e * 0x4000 < 0x10000 →
    (s.bc = .none → e = requestedBank s →
      exec (.resolveNone a) s = .next { s with rsp := .byte (s.storage.read (a.toNat + e * 0x4000)) }) ∧
    (∀ r, s.bc = .type1 r → e = (if r.mode then requestedBank s % 32 else requestedBank s % 4 + 32 * r.ramBank.toNat) →
      exec (.resolveType1 a) s = .next { s with rsp := .byte (s.storage.read (a.toNat + e * 0x4000)) }) ∧
    (∀ r, s.bc = .type2 r → e = requestedBank s % 16 →
      exec (.resolveType2 a) s = .next { s with rsp := .byte (s.storage.read (a.toNat + e * 0x4000)) }) ∧
    (∀ r, s.bc = .type3 r → e = requestedBank s →
      exec (.resolveType3 a) s = .next { s with rsp := .byte (s.storage.read (a.toNat + e * 0x4000)) }) ∧
    (∀ r, s.bc = .type5 r → e = requestedBank s →
      exec (.resolveType5 a) s = .next { s with rsp := .byte (s.storage.read (a.toNat + e * 0x4000)) })

/-- R141: the requested bank is `AB` under `BANK_AUTHORITY = ActiveBank` and under the None variant, and the controller's
`rom_bank` otherwise (D6). -/
def Obligations.RequestedBankFollowsTheAuthority : Prop :=
  ∀ s : State,
    (s.params.bankAuthority = .activeBank → requestedBank s = s.ab.toNat) ∧
    (s.params.bankAuthority = .controllerRomBank →
      (s.bc = .none → requestedBank s = s.ab.toNat) ∧
      (∀ r, s.bc = .type1 r → requestedBank s = r.romBank.toNat) ∧
      (∀ r, s.bc = .type2 r → requestedBank s = r.romBank.toNat) ∧
      (∀ r, s.bc = .type3 r → requestedBank s = r.romBank.toNat) ∧
      (∀ r, s.bc = .type5 r → requestedBank s = r.romBank.toNat))

/-- R56: reads have no side effects. Whatever `TIP` is and under every variant, a byte read (and every row that shares its
words), a word read and an interrupt query change nothing but the response. -/
def Obligations.ReadsChangeNoState : Prop :=
  ∀ (s t : State) (a : Addr) (k : Kind), ∀ i ∈ Instr.readWord a :: Instr.checkInterrupt k :: readRows a,
    exec i s = .next t → t = { s with rsp := t.rsp }

/-! ### Byte writes -/

/-- R118: while `TIP` is true, `write_byte` (and every row that shares its words) changes nothing at any address: not
storage, not `io`, not `IE`, not a controller register. -/
def Obligations.GatedWritesAreDropped : Prop :=
  ∀ (s : State) (a : Addr) (v : Byte), s.tip = true →
    ∀ i ∈ writeRows a v, exec i s = .next { s with rsp := .unit }

/-- R120: with the gate open, a write in HIGH stores the byte in the storage cell with the address's own index, and changes no
other cell and nothing else. -/
def Obligations.HighWritesStoreOneCell : Prop :=
  ∀ (s : State) (a : Addr) (v : Byte), s.tip = false → 0x8000 ≤ a.toNat → a.toNat < 0xFF00 →
    ∀ i ∈ [Instr.writeByte a v, .writeByteHigh a v],
      ∃ t, exec i s = .next t ∧ t = { s with storage := t.storage, rsp := .unit } ∧
        t.storage.read a.toNat = v ∧ ∀ k, k ≠ a.toNat → t.storage.read k = s.storage.read k

/-- R121: with the gate open, a write in the I/O window stores all 8 bits in the I/O cell, and changes no other cell and
nothing else: not storage, not `AB`, and it starts nothing. Conversely no write outside the window changes an I/O cell. -/
def Obligations.IoWritesStoreOneRegister : Prop :=
  (∀ (s : State) (a : Addr) (v : Byte), s.tip = false → 0xFF00 ≤ a.toNat → a.toNat < 0xFFFF →
    ∀ i ∈ [Instr.writeByte a v, .writeByteIo a v],
      ∃ t, exec i s = .next t ∧ t = { s with io := t.io, rsp := .unit } ∧
        t.io.read (a.toNat - 0xFF00) = v ∧ ∀ k, k ≠ a.toNat - 0xFF00 → t.io.read k = s.io.read k) ∧
  (∀ (s t : State) (a : Addr) (v : Byte), a.toNat < 0xFF00 ∨ a = 0xFFFF#16 → exec (.writeByte a v) s = .next t →
    t.io = s.io)

/-- R122: with the gate open, a write at 0xFFFF sets all 8 bits of `IE`, raises nothing and changes no flag bit, so every
`io` cell, `IF` among them, and every storage cell is as before. -/
def Obligations.IeWritesSetTheLatchOnly : Prop :=
  ∀ (s : State) (v : Byte), s.tip = false →
    ∀ i ∈ [Instr.writeByte 0xFFFF#16 v, .writeByteIe 0xFFFF#16 v], exec i s = .next { s with ie := v, rsp := .unit }

/-- R119, R177: under the None variant with the gate open, a write in the control range stores the byte at the bus address
itself, never bank-adjusted, and changes nothing else (D7). -/
def Obligations.NoneVariantStoresControlWrites : Prop :=
  ∀ (s : State) (a : Addr) (v : Byte), s.tip = false → s.bc = .none → a.toNat < 0x8000 →
    ∀ i ∈ [Instr.writeByte a v, .writeByteCtl a v, .applyWriteNone a v],
      ∃ t, exec i s = .next t ∧ t = { s with storage := t.storage, rsp := .unit } ∧
        t.storage.read a.toNat = v ∧ ∀ k, k ≠ a.toNat → t.storage.read k = s.storage.read k

/-- R179 to R182: the four Type1 cells, each as the register it writes and nothing else (storage included). -/
def Obligations.Type1ControlWrites : Prop :=
  ∀ (s : State) (r : Type1Regs) (a : Addr) (v : Byte), s.tip = false → s.bc = .type1 r →
    (a.toNat < 0x2000 →
      ∀ i ∈ [Instr.writeByte a v, .writeByteCtl a v, .applyWriteType1RamEnable a v], exec i s =
        .next { s with bc := .type1 { r with ramEnable := decide (v.toNat % 16 = 0x0A) }, rsp := .unit }) ∧
    (0x2000 ≤ a.toNat → a.toNat < 0x4000 →
      ∀ i ∈ [Instr.writeByte a v, .writeByteCtl a v, .applyWriteType1RomBankLo a v], exec i s =
        .next { s with bc := .type1 { r with romBank := BitVec.ofNat 7 (r.romBank.toNat / 32 * 32 + v.toNat % 32) },
                       rsp := .unit }) ∧
    (0x4000 ≤ a.toNat → a.toNat < 0x6000 →
      ∀ i ∈ [Instr.writeByte a v, .writeByteCtl a v, .applyWriteType1BankHi a v], exec i s =
        .next { s with bc := .type1 (if r.mode
                         then { r with romBank := BitVec.ofNat 7 (r.romBank.toNat % 32 + v.toNat % 4 * 32) }
                         else { r with ramBank := BitVec.ofNat 2 (v.toNat % 4) }),
                       rsp := .unit }) ∧
    (0x6000 ≤ a.toNat → a.toNat < 0x8000 →
      ∀ i ∈ [Instr.writeByte a v, .writeByteCtl a v, .applyWriteType1Mode a v], exec i s =
        .next { s with bc := .type1 { r with mode := decide (v.toNat % 2 = 0) }, rsp := .unit })

/-- R183 to R185: the Type2 cells; the range [0x4000, 0x8000) changes nothing. -/
def Obligations.Type2ControlWrites : Prop :=
  ∀ (s : State) (r : Type2Regs) (a : Addr) (v : Byte), s.tip = false → s.bc = .type2 r →
    (a.toNat < 0x2000 →
      ∀ i ∈ [Instr.writeByte a v, .writeByteCtl a v, .applyWriteType2RamEnable a v], exec i s =
        .next { s with bc := .type2 { r with ramEnable := decide (v.toNat % 16 = 0x0A) }, rsp := .unit }) ∧
    (0x2000 ≤ a.toNat → a.toNat < 0x4000 →
      ∀ i ∈ [Instr.writeByte a v, .writeByteCtl a v, .applyWriteType2RomBank a v], exec i s =
        .next { s with bc := .type2 { r with romBank := BitVec.ofNat 4 (v.toNat % 16) }, rsp := .unit }) ∧
    (0x4000 ≤ a.toNat → a.toNat < 0x8000 →
      ∀ i ∈ [Instr.writeByte a v, .writeByteCtl a v, .applyWriteType2Nop a v], exec i s =
        .next { s with rsp := .unit })

/-- R186 to R189: the Type3 cells; the range [0x6000, 0x8000) changes nothing. -/
def Obligations.Type3ControlWrites : Prop :=
  ∀ (s : State) (r : Type3Regs) (a : Addr) (v : Byte), s.tip = false → s.bc = .type3 r →
    (a.toNat < 0x2000 →
      ∀ i ∈ [Instr.writeByte a v, .writeByteCtl a v, .applyWriteType3RamEnable a v], exec i s =
        .next { s with bc := .type3 { r with ramEnable := decide (v.toNat % 16 = 0x0A) }, rsp := .unit }) ∧
    (0x2000 ≤ a.toNat → a.toNat < 0x4000 →
      ∀ i ∈ [Instr.writeByte a v, .writeByteCtl a v, .applyWriteType3RomBank a v], exec i s =
        .next { s with bc := .type3 { r with romBank := BitVec.ofNat 7 (v.toNat % 128) }, rsp := .unit }) ∧
    (0x4000 ≤ a.toNat → a.toNat < 0x6000 →
      ∀ i ∈ [Instr.writeByte a v, .writeByteCtl a v, .applyWriteType3RamBank a v], exec i s =
        .next { s with bc := .type3 { r with ramBank := BitVec.ofNat 2 (v.toNat % 4) }, rsp := .unit }) ∧
    (0x6000 ≤ a.toNat → a.toNat < 0x8000 →
      ∀ i ∈ [Instr.writeByte a v, .writeByteCtl a v, .applyWriteType3Nop a v], exec i s =
        .next { s with rsp := .unit })

/-- R190 to R194: the Type5 cells; the range [0x6000, 0x8000) changes nothing. -/
def Obligations.Type5ControlWrites : Prop :=
  ∀ (s : State) (r : Type5Regs) (a : Addr) (v : Byte), s.tip = false → s.bc = .type5 r →
    (a.toNat < 0x2000 →
      ∀ i ∈ [Instr.writeByte a v, .writeByteCtl a v, .applyWriteType5RamEnable a v], exec i s =
        .next { s with bc := .type5 { r with ramEnable := decide (v.toNat % 16 = 0x0A) }, rsp := .unit }) ∧
    (0x2000 ≤ a.toNat → a.toNat < 0x3000 →
      ∀ i ∈ [Instr.writeByte a v, .writeByteCtl a v, .applyWriteType5RomBankLo a v], exec i s =
        .next { s with bc := .type5 { r with romBank := BitVec.ofNat 9 (r.romBank.toNat / 256 * 256 + v.toNat) },
                       rsp := .unit }) ∧
    (0x3000 ≤ a.toNat → a.toNat < 0x4000 →
      ∀ i ∈ [Instr.writeByte a v, .writeByteCtl a v, .applyWriteType5RomBankHi a v], exec i s =
        .next { s with bc := .type5 { r with romBank := BitVec.ofNat 9 (r.romBank.toNat % 256 + v.toNat % 2 * 256) },
                       rsp := .unit }) ∧
    (0x4000 ≤ a.toNat → a.toNat < 0x6000 →
      ∀ i ∈ [Instr.writeByte a v, .writeByteCtl a v, .applyWriteType5RamBank a v], exec i s =
        .next { s with bc := .type5 { r with ramBank := BitVec.ofNat 4 (v.toNat % 16) }, rsp := .unit }) ∧
    (0x6000 ≤ a.toNat → a.toNat < 0x8000 →
      ∀ i ∈ [Instr.writeByte a v, .writeByteCtl a v, .applyWriteType5Nop a v], exec i s =
        .next { s with rsp := .unit })

/-- R178: under every banked variant with the gate open, a write in [0x0000, 0x2000) enables exactly when the low nibble is
0xA, and disables otherwise: no value leaves `ram_enable` unchanged, and the high nibble is ignored. -/
def Obligations.EnableNibbleDecidesRamEnable : Prop :=
  ∀ (s : State) (a : Addr) (v : Byte), s.tip = false → s.bc ≠ .none → a.toNat < 0x2000 →
    ∃ t, exec (.writeByte a v) s = .next t ∧ ramEnableOf t.bc = some (decide (v.toNat % 16 = 0x0A))

/-- R195: under a banked variant `ApplyWrite` changes the bank-controller state and nothing else, storage included, and no
operation other than a construction changes a storage cell below 0x8000, under either `DMA_MODE`. -/
def Obligations.BankedVariantsNeverStoreLow : Prop :=
  (∀ (s : State) (a : Addr) (v : Byte), s.bc ≠ .none → applyWrite a v s = { s with bc := (applyWrite a v s).bc }) ∧
  (∀ (s t : State) (i : Instr), s.bc ≠ .none → i.isStrap = false → exec i s = .next t →
    ∀ k, k < 0x8000 → t.storage.read k = s.storage.read k)

/-! ### Word access -/

/-- R52, R130: a word read away from 0xFFFF is the little-endian composition of two byte reads, each by its own address;
with the gate closed it is 0xFFFF; and a byte that has no value ends the whole operation, the low byte's outcome first
(order of the reads: D17; out-of-range reads: D8). -/
def Obligations.ReadWordComposesTwoByteReads : Prop :=
  ∀ (s : State) (a : Addr), a ≠ 0xFFFF#16 →
    (s.tip = true → exec (.readWord a) s = .next { s with rsp := .word 0xFFFF#16 }) ∧
    (s.tip = false → Readable s a.toNat → Readable s (a.toNat + 1) →
      exec (.readWord a) s = .next { s with rsp := .word (busByte s (a.toNat + 1) ++ busByte s a.toNat) }) ∧
    (s.tip = false → ¬ Readable s a.toNat →
      exec (.readWord a) s = .fault (.bankedReadOutOfRange a (effectiveIndex s))) ∧
    (s.tip = false → Readable s a.toNat → ¬ Readable s (a.toNat + 1) →
      exec (.readWord a) s = .fault (.bankedReadOutOfRange (a + 1#16) (effectiveIndex s)))

/-- R131: a word write away from 0xFFFF completes, and is the byte write of its low half followed, from the state that
leaves, by the byte write of its high half at the next address. -/
def Obligations.WriteWordIsLowThenHigh : Prop :=
  ∀ (s : State) (a : Addr) (w : Word), a ≠ 0xFFFF#16 →
    ∃ t u, exec (.writeByte a (w.extractLsb' 0 8)) s = .next t ∧
      exec (.writeByte (a + 1#16) (w.extractLsb' 8 8)) t = .next u ∧ exec (.writeWord a w) s = .next u

/-- R57, R131, R132: whatever its address, a word write that completes leaves every storage cell but those with the indices of
its two addresses, every `io` cell but theirs, and `IE` unless one of them is 0xFFFF; it never changes `AB`, `TIP`, the
parameters or the variant. -/
def Obligations.WriteWordFrame : Prop :=
  ∀ (s t : State) (a : Addr) (w : Word), exec (.writeWord a w) s = .next t →
    (∀ k, k ≠ a.toNat → k ≠ (a + 1#16).toNat → t.storage.read k = s.storage.read k) ∧
    (∀ k, k + 0xFF00 ≠ a.toNat → k + 0xFF00 ≠ (a + 1#16).toNat → t.io.read k = s.io.read k) ∧
    (a.toNat < 0xFFFE → t.ie = s.ie) ∧
    (0x8000 ≤ a.toNat → a ≠ 0xFFFF#16 → t.bc = s.bc) ∧
    t.ab = s.ab ∧ t.tip = s.tip ∧ t.params = s.params ∧ t.bc.variant = s.bc.variant ∧ t.pending = s.pending

/-- R132, R213: at 0xFFFF both word operations end in `WordAddressWrap` under `WORD_WRAP = Fault`, whatever `TIP` holds; under
`Wrap16` the second byte is at 0x0000: the read is `S[0] ++ IE`, and the write sets `IE` and then writes at 0x0000 (D9). -/
def Obligations.WordAccessAtFFFF : Prop :=
  ∀ (s : State) (w : Word),
    (s.params.wordWrap = .fault →
      exec (.readWord 0xFFFF#16) s = .fault (.wordAddressWrap .read) ∧
      exec (.writeWord 0xFFFF#16 w) s = .fault (.wordAddressWrap .write)) ∧
    (s.params.wordWrap = .wrap16 → s.tip = false →
      exec (.readWord 0xFFFF#16) s = .next { s with rsp := .word (s.storage.read 0 ++ s.ie) } ∧
      exec (.writeWord 0xFFFF#16 w) s =
        exec (.writeByte 0x0000#16 (w.extractLsb' 8 8)) { s with ie := w.extractLsb' 0 8 }) ∧
    (s.params.wordWrap = .wrap16 → s.tip = true →
      exec (.readWord 0xFFFF#16) s = .next { s with rsp := .word 0xFFFF#16 } ∧
      exec (.writeWord 0xFFFF#16 w) s = .next { s with rsp := .unit })

/-- 40_byte_access.md section 3: with the gate open, at every address from 0x8000 up and under every variant, a byte written
is the byte read back. -/
def Obligations.BytesRoundTripFrom8000 : Prop :=
  ∀ (s : State) (a : Addr) (v : Byte), s.tip = false → 0x8000 ≤ a.toNat →
    ∃ t, exec (.writeByte a v) s = .next t ∧ exec (.readByte a) t = .next { t with rsp := .byte v }

/-- 40_byte_access.md section 3 (C8): with the gate open, every byte value round-trips at an address in LOW exactly when the
variant is None. -/
def Obligations.LowRoundTripExactlyUnderNone : Prop :=
  ∀ (s : State) (a : Addr), s.tip = false → a.toNat < 0x4000 →
    ((∀ v : Byte, ∃ t, exec (.writeByte a v) s = .next t ∧ exec (.readByte a) t = .next { t with rsp := .byte v }) ↔
      s.bc.variant = .none)

/-- 40_byte_access.md section 3: under None with the gate open, a byte written in the banked window reads back from the
window for every value exactly when the effective index is 0; otherwise, for an index of 1 or 2, the read gives what the
banked cell held (decision D7 of the store). -/
def Obligations.WindowRoundTripNeedsBankZero : Prop :=
  ∀ (s : State) (a : Addr) (v : Byte), s.tip = false → s.bc = .none → 0x4000 ≤ a.toNat → a.toNat < 0x8000 →
    effectiveIndex s ≤ 2 →
    ∃ t, exec (.writeByte a v) s = .next t ∧
      (effectiveIndex s = 0 → exec (.readByte a) t = .next { t with rsp := .byte v }) ∧
      (effectiveIndex s ≠ 0 →
        exec (.readByte a) t =
          .next { t with rsp := .byte (s.storage.read (a.toNat + effectiveIndex s * 0x4000)) })

/-- R52, R133 (closing paragraph): with the gate open, at every address in [0x8000, 0xFFFF) and under every variant, a word
written reads back whole, its low byte at its address and its high byte at the next. -/
def Obligations.WordsRoundTripFrom8000 : Prop :=
  ∀ (s : State) (a : Addr) (w : Word), s.tip = false → 0x8000 ≤ a.toNat → a ≠ 0xFFFF#16 →
    ∃ t, exec (.writeWord a w) s = .next t ∧
      exec (.readWord a) t = .next { t with rsp := .word w } ∧
      exec (.readByte a) t = .next { t with rsp := .byte (w.extractLsb' 0 8) } ∧
      exec (.readByte (a + 1#16)) t = .next { t with rsp := .byte (w.extractLsb' 8 8) }

/-- R241: under Type1, a word write at 0x5FFF applies its low byte by the `mode` in force before the operation, and only then
sets `mode` from bit 8 of the word. -/
def Obligations.Type1WordWriteUsesTheOldMode : Prop :=
  ∀ (s : State) (r : Type1Regs) (w : Word), s.tip = false → s.bc = .type1 r →
    exec (.writeWord 0x5FFF#16 w) s =
      .next { s with bc := .type1 (if r.mode
                       then { r with romBank := BitVec.ofNat 7 (r.romBank.toNat % 32 + w.toNat % 4 * 32),
                                     mode := decide (w.toNat / 256 % 2 = 0) }
                       else { r with ramBank := BitVec.ofNat 2 (w.toNat % 4),
                                     mode := decide (w.toNat / 256 % 2 = 0) }),
                     rsp := .unit }

/-! ### Bank select and interrupts -/

/-- R140, R142: `set_bank` sets all 8 bits of `AB` and nothing else, whatever `TIP` holds (D5, D12). -/
def Obligations.SetBankSetsTheSelectorOnly : Prop :=
  ∀ (s : State) (b : Byte), exec (.setBank b) s = .next { s with ab := b, rsp := .unit }

/-- R150, R151, R155: `check_interrupt` answers whether the kind's own bit of `IE` is set, VBlank bit 0 to Joypad bit 4,
changes nothing, and looks at neither `IF` nor `TIP` (kind codes: D4; gate: D12). -/
def Obligations.CheckInterruptReadsTheEnableBit : Prop :=
  ∀ s : State,
    exec (.checkInterrupt .vBlank) s = .next { s with rsp := .flag (decide (s.ie.toNat % 2 = 1)) } ∧
    exec (.checkInterrupt .lcdStat) s = .next { s with rsp := .flag (decide (s.ie.toNat / 2 % 2 = 1)) } ∧
    exec (.checkInterrupt .timer) s = .next { s with rsp := .flag (decide (s.ie.toNat / 4 % 2 = 1)) } ∧
    exec (.checkInterrupt .serial) s = .next { s with rsp := .flag (decide (s.ie.toNat / 8 % 2 = 1)) } ∧
    exec (.checkInterrupt .joypad) s = .next { s with rsp := .flag (decide (s.ie.toNat / 16 % 2 = 1)) }

/-- R154: a trigger of a disabled kind changes no state, so no record of it is left, and enabling the kind afterwards, with
the gate open, raises no flag. -/
def Obligations.DisabledTriggersAreLost : Prop :=
  ∀ (s : State) (k : Kind), s.ie.getLsbD k.code.toNat = false →
    exec (.triggerInterrupt k) s = .next { s with rsp := .unit } ∧
    ∀ v : Byte, s.tip = false →
      exec (.writeByte 0xFFFF#16 v) { s with rsp := .unit } = .next { s with ie := v, rsp := .unit }

/-- R152, R153, R155: a trigger of an enabled kind sets its flag bit of `IF`, bit 0 for every kind under `IF_MODE =
Collapsed` and the kind's own bit under `PerKind`, keeps the other bits of `IF` and every other `io` cell, and changes
nothing else, whatever `TIP` holds (D11, D12). -/
def Obligations.EnabledTriggersSetTheFlag : Prop :=
  ∀ (s : State) (k : Kind), s.ie.getLsbD k.code.toNat = true →
    ∃ t, exec (.triggerInterrupt k) s = .next t ∧ t = { s with io := t.io, rsp := .unit } ∧
      (∀ j, j < 8 → (t.io.read 0x0F).getLsbD j =
        ((s.io.read 0x0F).getLsbD j ||
          decide (j = if s.params.ifMode = .collapsed then 0 else k.code.toNat))) ∧
      ∀ i, i ≠ 0x0F → t.io.read i = s.io.read i

/-- R218: the combined effect of two triggers is the same in either order (the spec's own inference from R152 and R8). -/
def Obligations.TriggersCommute : Prop :=
  ∀ (s : State) (k k' : Kind), s.Inv →
    ∃ t t' u, exec (.triggerInterrupt k) s = .next t ∧ exec (.triggerInterrupt k') t = .next u ∧
      exec (.triggerInterrupt k') s = .next t' ∧ exec (.triggerInterrupt k) t' = .next u

/-! ### Block transfer -/

/-- R163: under `DMA_MODE = SelfBlocking` a block transfer is a no-op: from every state with the gate open and for every
source page it ends in that state, the gate open again (the spec's own inference from R160, R111, R118; D10). -/
def Obligations.SelfBlockingTransfersCopyNothing : Prop :=
  ∀ (s : State) (p : Byte), s.tip = false → s.params.dmaMode = .selfBlocking →
    exec (.dmaTransfer p) s = .next { s with rsp := .unit }

/-- R161: a block transfer issued while `TIP` is true does nothing, under either `DMA_MODE`: it does not copy and does not
clear `TIP`. -/
def Obligations.ReentrantTransfersAreDropped : Prop :=
  ∀ (s : State) (p : Byte), s.tip = true → exec (.dmaTransfer p) s = .next { s with rsp := .unit }

/-- R90, R162, R164: under `DMA_MODE = Bypass` with the gate open, a transfer from a page whose bytes have values completes:
cell `0xFE00 + i` holds what a read at `source_page * 256 + i` gave before the operation, for each `i` below 160, no other
cell changes, and nothing else changes (D10, D16). -/
def Obligations.BypassTransfersCopyThePage : Prop :=
  ∀ (s : State) (p : Byte), s.tip = false → s.params.dmaMode = .bypass → Readable s (p.toNat * 256) →
    ∃ t, exec (.dmaTransfer p) s = .next t ∧ t = { s with storage := t.storage, rsp := .unit } ∧
      (∀ i, i < 160 → t.storage.read (0xFE00 + i) = busByte s (p.toNat * 256 + i)) ∧
      ∀ k, k < 0xFE00 ∨ 0xFEA0 ≤ k → t.storage.read k = s.storage.read k

/-- R160, R164, R212: under `DMA_MODE = Bypass` with the gate open, a transfer from a page of the banked window whose
effective index is 3 or more ends, under `OOR_POLICY = Fault`, in the outcome of its first byte (D8, D10). -/
def Obligations.BypassTransfersFaultOutOfRange : Prop :=
  ∀ (s : State) (p : Byte), s.tip = false → s.params.dmaMode = .bypass → ¬ Readable s (p.toNat * 256) →
    exec (.dmaTransfer p) s = .fault (.bankedReadOutOfRange (BitVec.ofNat 16 (p.toNat * 256)) (effectiveIndex s))

/-! ### Construction -/

/-- R26, R86, R230: each STRAP row completes and leaves the reset values of R40 for its variant: the loader's image, zero
registers, RESET_MODE (D3, D13, D14); the parameters and the requests still to present stay (log 9). -/
def Obligations.StrapsConstructTheirVariant : Prop :=
  ∀ s : State,
    exec .variantNone s = .next ⟨s.params, s.params.initStorage, [], 0#8, 0#8, false, .none, s.pending, .unit⟩ ∧
    exec .variantType1 s = .next ⟨s.params, s.params.initStorage, [], 0#8, 0#8, false,
      .type1 ⟨0#7, 0#2, false, s.params.resetMode⟩, s.pending, .unit⟩ ∧
    exec .variantType2 s = .next ⟨s.params, s.params.initStorage, [], 0#8, 0#8, false,
      .type2 ⟨0#4, false⟩, s.pending, .unit⟩ ∧
    exec .variantType3 s = .next ⟨s.params, s.params.initStorage, [], 0#8, 0#8, false,
      .type3 ⟨0#7, 0#2, false⟩, s.pending, .unit⟩ ∧
    exec .variantType5 s = .next ⟨s.params, s.params.initStorage, [], 0#8, 0#8, false,
      .type5 ⟨0#9, 0#4, false⟩, s.pending, .unit⟩

/-! ### Whole-machine rules -/

/-- R25, R26, R44: no operation changes the parameters, and none but a construction changes the variant or leaves `TIP`
other than it was. The rules speak of the life of one instance: that a construction, too, keeps the parameters is this
model's choice (log 9), and so is that an operation leaves the requests still to present as they are (`pending` is the
model's own field, log 6; kept by a construction, log 9). -/
def Obligations.ParametersVariantAndGateStay : Prop :=
  ∀ (i : Instr) (s t : State), exec i s = .next t →
    t.params = s.params ∧ t.pending = s.pending ∧
    (i.isStrap = false → t.bc.variant = s.bc.variant ∧ t.tip = s.tip)

/-- R20 (column "written by"), R24, R57: outside construction, `AB` is changed by `set_bank` only; `IE` by a write at 0xFFFF
only; `io` by a write in the I/O window or by `trigger_interrupt`, which changes cell 0x0F only; the controller's registers
by a write in the control range only; storage by a write below 0xFF00 or by a block transfer under `DMA_MODE = Bypass`.
(A word write counts at both its addresses.) -/
def Obligations.EachRegisterHasItsWriters : Prop :=
  ∀ (i : Instr) (s t : State), i.isStrap = false → exec i s = .next t →
    (t.ab ≠ s.ab → ∃ b, i = .setBank b) ∧
    (t.ie ≠ s.ie → i.writesIn 0xFFFF 0x10000 = true) ∧
    (t.io ≠ s.io → i.writesIn 0xFF00 0xFFFF = true ∨
      ∃ k, i = .triggerInterrupt k ∧ ∀ j, j ≠ 0x0F → t.io.read j = s.io.read j) ∧
    (t.bc ≠ s.bc → i.writesIn 0x0000 0x8000 = true) ∧
    (t.storage ≠ s.storage → i.writesIn 0x0000 0xFF00 = true ∨
      ∃ p, i = .dmaTransfer p ∧ s.params.dmaMode = .bypass)

/-- R37, R38: the storage cells 0xFF00 and up, and `io` cell 0xFF, are never written after construction (the spec's own
inference). -/
def Obligations.HiddenCellsAreNeverWritten : Prop :=
  ∀ (i : Instr) (s t : State), i.isStrap = false → exec i s = .next t →
    (∀ k, 0xFF00 ≤ k → t.storage.read k = s.storage.read k) ∧ ∀ k, 0xFF ≤ k → t.io.read k = s.io.read k

/-- R60: with the gate open, a read in the banked window returns what the read of the aliased address in HIGH returns: index 1
aliases 0x8000 to 0xBFFF, index 2 aliases 0xC000 to 0xFEFF (the spec's own inference). -/
def Obligations.WindowAliasesHigh : Prop :=
  ∀ (s : State) (a b : Addr) (v : Byte), s.tip = false → 0x4000 ≤ a.toNat → a.toNat < 0x8000 →
    b.toNat < 0xFF00 → (effectiveIndex s = 1 ∨ effectiveIndex s = 2) → b.toNat = a.toNat + effectiveIndex s * 0x4000 →
    (exec (.readByte a) s = exec (.readByte b) s) ∧
    ∃ t, exec (.writeByte b v) s = .next t ∧ exec (.readByte a) t = .next { t with rsp := .byte v }

/-- R121 and the source's I/O window isolation (95_test_vectors.md E3): with the gate open, a write in the I/O window does not
change what a read below 0xFF00 gives, and a write below 0xFF00 does not change what a read in the I/O window gives. -/
def Obligations.IoWindowIsIsolated : Prop :=
  ∀ (s : State) (a b : Addr) (v : Byte), s.tip = false → 0xFF00 ≤ a.toNat → a.toNat < 0xFFFF → b.toNat < 0xFF00 →
    (∃ t, exec (.writeByte a v) s = .next t ∧
      (∀ x, exec (.readByte b) s = .next { s with rsp := .byte x } → exec (.readByte b) t = .next { t with rsp := .byte x }) ∧
      (∀ f, exec (.readByte b) s = .fault f → exec (.readByte b) t = .fault f)) ∧
    (∃ t, exec (.writeByte b v) s = .next t ∧
      exec (.readByte a) t = .next { t with rsp := .byte (s.io.read (a.toNat - 0xFF00)) })

/-- R39, R61, R196: under `BANK_AUTHORITY = ActiveBank`, `ram_enable` and `rom_bank` of every variant, and `ram_bank` of
Type3 and Type5, have no effect on any operation but on themselves: two states that differ only there stop alike, or go on
to states that differ only there, with the same response (D6). -/
def Obligations.ControlRegistersGateNothing : Prop :=
  ∀ (i : Instr) (s : State) (bc' : Controller), s.params.bankAuthority = .activeBank → sameReads s.bc bc' = true →
    (∀ f, exec i s = .fault f → exec i { s with bc := bc' } = .fault f) ∧
    (∀ r, exec i s = .refused r → exec i { s with bc := bc' } = .refused r) ∧
    (∀ t, exec i s = .next t →
      ∃ bc'', exec i { s with bc := bc' } = .next { t with bc := bc'' } ∧ sameReads t.bc bc'' = true)
end

