-- ==== Sys2Proof/Laws/Memory.lean ====
section
/-! SUPPORT. The laws of the byte arrays: a read after a write, that every write keeps the canonical form, and that
equal arrays in canonical form are equal lists. -/

namespace Sys2Proof

namespace Memory

theorem read_insert_same (m : Memory) (a : Nat) (v : Byte) : (m.insert a v).read a = v := by
  induction m with
  | nil => simp [insert, read]
  | cons c rest ih =>
    obtain ⟨k, b⟩ := c
    unfold insert
    split
    · simp [read]
    · split
      · simp [read]
      · rename_i h; simp [read, h, ih]

theorem read_insert_other (m : Memory) {a k : Nat} (v : Byte) (h : k ≠ a) : (m.insert a v).read k = m.read k := by
  induction m with
  | nil => simp [insert, read, h]
  | cons c rest ih =>
    obtain ⟨j, b⟩ := c
    unfold insert
    split
    · simp [read, h]
    · split
      · rename_i h'; subst h'; simp [read, h]
      · simp [read, ih]

theorem read_erase_same (m : Memory) (a : Nat) : (m.erase a).read a = unlisted := by
  induction m with
  | nil => rfl
  | cons c rest ih =>
    obtain ⟨k, b⟩ := c
    unfold erase
    split
    · exact ih
    · rename_i h; simp [read, h, ih]

theorem read_erase_other (m : Memory) {a k : Nat} (h : k ≠ a) : (m.erase a).read k = m.read k := by
  induction m with
  | nil => rfl
  | cons c rest ih =>
    obtain ⟨j, b⟩ := c
    unfold erase
    split
    · rename_i h'; subst h'; simp [read, h, ih]
    · simp [read, ih]

/-- A read after a write to the same index gives the byte written. -/
@[simp] theorem read_write_same (m : Memory) (a : Nat) (v : Byte) : (m.write a v).read a = v := by
  unfold write
  split
  · rename_i h; rw [read_erase_same, h]
  · exact read_insert_same m a v

/-- A write leaves every other index alone. -/
theorem read_write_other (m : Memory) {a k : Nat} (v : Byte) (h : k ≠ a) : (m.write a v).read k = m.read k := by
  unfold write
  split
  · exact read_erase_other m h
  · exact read_insert_other m v h

theorem read_write (m : Memory) (a k : Nat) (v : Byte) :
    (m.write a v).read k = if k = a then v else m.read k := by
  split
  · rename_i h; rw [h, read_write_same]
  · rename_i h; exact read_write_other m v h

theorem wfFrom_cons {size lo k : Nat} {b : Byte} {rest : Memory} :
    wfFrom size lo ((k, b) :: rest) = true ↔
      lo ≤ k ∧ k < size ∧ b ≠ unlisted ∧ wfFrom size (k + 1) rest = true := by
  simp [wfFrom, and_assoc]

theorem wfFrom_weaken {size lo lo' : Nat} {m : Memory} (h : lo' ≤ lo) (hm : wfFrom size lo m = true) :
    wfFrom size lo' m = true := by
  cases m with
  | nil => rfl
  | cons c rest =>
    obtain ⟨k, b⟩ := c
    rw [wfFrom_cons] at hm ⊢
    exact ⟨Nat.le_trans h hm.1, hm.2⟩

theorem insert_wfFrom {size lo a : Nat} {v : Byte} {m : Memory} (hm : wfFrom size lo m = true) (hlo : lo ≤ a)
    (ha : a < size) (hv : v ≠ unlisted) : wfFrom size lo (m.insert a v) = true := by
  induction m generalizing lo with
  | nil => simp [insert, wfFrom, hlo, ha, hv]
  | cons c rest ih =>
    obtain ⟨k, b⟩ := c
    rw [wfFrom_cons] at hm
    obtain ⟨h1, h2, h3, h4⟩ := hm
    unfold insert
    split
    · rename_i h
      rw [wfFrom_cons, wfFrom_cons]
      exact ⟨hlo, ha, hv, h, h2, h3, h4⟩
    · split
      · rename_i h; subst h
        rw [wfFrom_cons]
        exact ⟨h1, h2, hv, h4⟩
      · rw [wfFrom_cons]
        exact ⟨h1, h2, h3, ih h4 (by omega)⟩

theorem erase_wfFrom {size lo a : Nat} {m : Memory} (hm : wfFrom size lo m = true) :
    wfFrom size lo (m.erase a) = true := by
  induction m generalizing lo with
  | nil => rfl
  | cons c rest ih =>
    obtain ⟨k, b⟩ := c
    rw [wfFrom_cons] at hm
    obtain ⟨h1, h2, h3, h4⟩ := hm
    unfold erase
    split
    · exact wfFrom_weaken (Nat.le_succ_of_le h1) (ih h4)
    · rw [wfFrom_cons]
      exact ⟨h1, h2, h3, ih h4⟩

/-- Every write at an index of the array keeps the canonical form. -/
theorem write_wf {size a : Nat} {m : Memory} (v : Byte) (hm : wf size m = true) (ha : a < size) :
    wf size (m.write a v) = true := by
  unfold write
  split
  · exact erase_wfFrom hm
  · rename_i h; exact insert_wfFrom hm (Nat.zero_le a) ha h

theorem read_below {size lo : Nat} {m : Memory} (hm : wfFrom size lo m = true) {a : Nat} (ha : a < lo) :
    m.read a = unlisted := by
  induction m generalizing lo with
  | nil => rfl
  | cons c rest ih =>
    obtain ⟨k, b⟩ := c
    rw [wfFrom_cons] at hm
    have hne : a ≠ k := by omega
    simp only [read, hne, if_false]
    exact ih hm.2.2.2 (by omega)

theorem eq_of_read_eq_from {size lo : Nat} {m n : Memory} (hm : wfFrom size lo m = true) (hn : wfFrom size lo n = true)
    (h : ∀ a, m.read a = n.read a) : m = n := by
  induction m generalizing lo n with
  | nil =>
    cases n with
    | nil => rfl
    | cons c rest =>
      obtain ⟨k, b⟩ := c
      rw [wfFrom_cons] at hn
      exact absurd (by simpa [read] using (h k).symm) hn.2.2.1
  | cons c rest ih =>
    obtain ⟨k, b⟩ := c
    cases n with
    | nil =>
      rw [wfFrom_cons] at hm
      exact absurd (by simpa [read] using h k) hm.2.2.1
    | cons d rest' =>
      obtain ⟨j, e⟩ := d
      rw [wfFrom_cons] at hm hn
      obtain ⟨-, -, hb, hrest⟩ := hm
      obtain ⟨-, -, he, hrest'⟩ := hn
      have hkj : k = j := by
        rcases Nat.lt_trichotomy k j with hlt | heq | hgt
        · have := h k
          simp only [read, if_true, Nat.ne_of_lt hlt, if_false] at this
          exact absurd (this.trans (read_below hrest' (by omega))) hb
        · exact heq
        · have := h j
          simp only [read, if_true, Nat.ne_of_lt hgt, if_false] at this
          exact absurd (this.symm.trans (read_below hrest (by omega))) he
      subst hkj
      have hbe : b = e := by simpa [read] using h k
      subst hbe
      have : rest = rest' := by
        refine ih hrest hrest' (fun a => ?_)
        by_cases ha : a = k
        · subst ha; rw [read_below hrest (Nat.lt_succ_self _), read_below hrest' (Nat.lt_succ_self _)]
        · simpa [read, ha] using h a
      rw [this]

/-- Arrays in canonical form that read alike everywhere are the same list. -/
theorem eq_of_read_eq {size : Nat} {m n : Memory} (hm : wf size m = true) (hn : wf size n = true)
    (h : ∀ a, m.read a = n.read a) : m = n :=
  eq_of_read_eq_from hm hn h

end Memory

end Sys2Proof
end

