-- ==== Sys2Proof/Laws/State.lean ====
section
/-! SUPPORT. One lemma per field per update of the state: what an update leaves and what it writes. -/

namespace Sys2Proof.Machine

open Sys2Proof

@[simp] theorem storeCell_params (a : Nat) (v : Byte) (s : State) : (storeCell a v s).params = s.params := rfl
@[simp] theorem storeCell_storage (a : Nat) (v : Byte) (s : State) : (storeCell a v s).storage = s.storage.write a v := rfl
@[simp] theorem storeCell_io (a : Nat) (v : Byte) (s : State) : (storeCell a v s).io = s.io := rfl
@[simp] theorem storeCell_ie (a : Nat) (v : Byte) (s : State) : (storeCell a v s).ie = s.ie := rfl
@[simp] theorem storeCell_ab (a : Nat) (v : Byte) (s : State) : (storeCell a v s).ab = s.ab := rfl
@[simp] theorem storeCell_tip (a : Nat) (v : Byte) (s : State) : (storeCell a v s).tip = s.tip := rfl
@[simp] theorem storeCell_bc (a : Nat) (v : Byte) (s : State) : (storeCell a v s).bc = s.bc := rfl
@[simp] theorem storeCell_pending (a : Nat) (v : Byte) (s : State) : (storeCell a v s).pending = s.pending := rfl
@[simp] theorem storeCell_rsp (a : Nat) (v : Byte) (s : State) : (storeCell a v s).rsp = s.rsp := rfl

@[simp] theorem storeIo_params (i : Nat) (v : Byte) (s : State) : (storeIo i v s).params = s.params := rfl
@[simp] theorem storeIo_storage (i : Nat) (v : Byte) (s : State) : (storeIo i v s).storage = s.storage := rfl
@[simp] theorem storeIo_io (i : Nat) (v : Byte) (s : State) : (storeIo i v s).io = s.io.write i v := rfl
@[simp] theorem storeIo_ie (i : Nat) (v : Byte) (s : State) : (storeIo i v s).ie = s.ie := rfl
@[simp] theorem storeIo_ab (i : Nat) (v : Byte) (s : State) : (storeIo i v s).ab = s.ab := rfl
@[simp] theorem storeIo_tip (i : Nat) (v : Byte) (s : State) : (storeIo i v s).tip = s.tip := rfl
@[simp] theorem storeIo_bc (i : Nat) (v : Byte) (s : State) : (storeIo i v s).bc = s.bc := rfl
@[simp] theorem storeIo_pending (i : Nat) (v : Byte) (s : State) : (storeIo i v s).pending = s.pending := rfl
@[simp] theorem storeIo_rsp (i : Nat) (v : Byte) (s : State) : (storeIo i v s).rsp = s.rsp := rfl

@[simp] theorem forceTip_params (b : Bool) (s : State) : (s.forceTip b).params = s.params := rfl
@[simp] theorem forceTip_storage (b : Bool) (s : State) : (s.forceTip b).storage = s.storage := rfl
@[simp] theorem forceTip_io (b : Bool) (s : State) : (s.forceTip b).io = s.io := rfl
@[simp] theorem forceTip_ie (b : Bool) (s : State) : (s.forceTip b).ie = s.ie := rfl
@[simp] theorem forceTip_ab (b : Bool) (s : State) : (s.forceTip b).ab = s.ab := rfl
@[simp] theorem forceTip_tip (b : Bool) (s : State) : (s.forceTip b).tip = b := rfl
@[simp] theorem forceTip_bc (b : Bool) (s : State) : (s.forceTip b).bc = s.bc := rfl
@[simp] theorem forceTip_pending (b : Bool) (s : State) : (s.forceTip b).pending = s.pending := rfl
@[simp] theorem forceTip_rsp (b : Bool) (s : State) : (s.forceTip b).rsp = s.rsp := rfl

@[simp] theorem present_params (r : Request) (s : State) : (s.present r).params = s.params := rfl
@[simp] theorem present_storage (r : Request) (s : State) : (s.present r).storage = s.storage := rfl
@[simp] theorem present_io (r : Request) (s : State) : (s.present r).io = s.io := rfl
@[simp] theorem present_ie (r : Request) (s : State) : (s.present r).ie = s.ie := rfl
@[simp] theorem present_ab (r : Request) (s : State) : (s.present r).ab = s.ab := rfl
@[simp] theorem present_tip (r : Request) (s : State) : (s.present r).tip = s.tip := rfl
@[simp] theorem present_bc (r : Request) (s : State) : (s.present r).bc = s.bc := rfl
@[simp] theorem present_pending (r : Request) (s : State) : (s.present r).pending = r :: s.pending := rfl
@[simp] theorem present_rsp (r : Request) (s : State) : (s.present r).rsp = s.rsp := rfl

/-! `ApplyWrite` changes the storage or the controller record, nothing else. -/

@[simp] theorem applyWrite_params (a : Addr) (v : Byte) (s : State) : (applyWrite a v s).params = s.params := by
  unfold applyWrite; split <;> rfl
@[simp] theorem applyWrite_io (a : Addr) (v : Byte) (s : State) : (applyWrite a v s).io = s.io := by
  unfold applyWrite; split <;> rfl
@[simp] theorem applyWrite_ie (a : Addr) (v : Byte) (s : State) : (applyWrite a v s).ie = s.ie := by
  unfold applyWrite; split <;> rfl
@[simp] theorem applyWrite_ab (a : Addr) (v : Byte) (s : State) : (applyWrite a v s).ab = s.ab := by
  unfold applyWrite; split <;> rfl
@[simp] theorem applyWrite_tip (a : Addr) (v : Byte) (s : State) : (applyWrite a v s).tip = s.tip := by
  unfold applyWrite; split <;> rfl
@[simp] theorem applyWrite_pending (a : Addr) (v : Byte) (s : State) : (applyWrite a v s).pending = s.pending := by
  unfold applyWrite; split <;> rfl
@[simp] theorem applyWrite_rsp (a : Addr) (v : Byte) (s : State) : (applyWrite a v s).rsp = s.rsp := by
  unfold applyWrite; split <;> rfl

theorem Controller.constructed_variant (b : Bool) (v : Variant) : (Controller.constructed b v).variant = v := by
  cases v <;> rfl

end Sys2Proof.Machine
end

