-- ==== Sys2Proof/Laws/Ops.lean ====
section
/-! SUPPORT. One lemma per shared operation, which says once everything it can do: the region and control decodes in
numbers, the byte accesses by region, the block transfer's loop, and the rows that share a command's words. -/

namespace Sys2Proof.Machine

open Sys2Proof

/-! ### The decodes, in numbers -/

theorem getLsbD_iff (a : Addr) (i : Nat) : a.getLsbD i = decide (a.toNat / 2 ^ i % 2 = 1) := by
  rw [← BitVec.testBit_toNat, Nat.testBit_eq_decide_div_mod_eq]

theorem hiByte_eq_ff (a : Addr) : a.extractLsb' 8 8 = 0xFF#8 ↔ 0xFF00 ≤ a.toNat := by
  have := a.isLt
  rw [← BitVec.toNat_inj, BitVec.extractLsb'_toNat, Nat.shiftRight_eq_div_pow]
  simp only [BitVec.toNat_ofNat]
  omega

/-- The priority decode of R87 is the address map of R51. -/
theorem region_eq (a : Addr) :
    region a =
      if a.toNat < 0x4000 then .low
      else if a.toNat < 0x8000 then .banked
      else if a.toNat < 0xFF00 then .high
      else if a.toNat < 0xFFFF then .io
      else .ie := by
  have hlt := a.isLt
  have hie : a = 0xFFFF#16 ↔ a.toNat = 0xFFFF := by rw [← BitVec.toNat_inj]; rfl
  unfold region
  simp only [hie, hiByte_eq_ff, getLsbD_iff, decide_eq_true_eq]
  split_ifs <;> first | rfl | omega

theorem region_low {a : Addr} (h : a.toNat < 0x4000) : region a = .low := by simp [region_eq, h]

theorem region_banked {a : Addr} (h : 0x4000 ≤ a.toNat) (h' : a.toNat < 0x8000) : region a = .banked := by
  simp [region_eq, Nat.not_lt.mpr h, h']

theorem region_high {a : Addr} (h : 0x8000 ≤ a.toNat) (h' : a.toNat < 0xFF00) : region a = .high := by
  rw [region_eq]; split_ifs <;> first | rfl | omega

theorem region_io {a : Addr} (h : 0xFF00 ≤ a.toNat) (h' : a.toNat < 0xFFFF) : region a = .io := by
  rw [region_eq]; split_ifs <;> first | rfl | omega

theorem region_ie : region 0xFFFF#16 = .ie := by decide

/-- The control-register decode of R88, in numbers. -/
theorem controlRange_eq {a : Addr} (h : a.toNat < 0x8000) :
    controlRange a =
      if a.toNat < 0x2000 then .r0000
      else if a.toNat < 0x3000 then .r2000
      else if a.toNat < 0x4000 then .r3000
      else if a.toNat < 0x6000 then .r4000
      else .r6000 := by
  unfold controlRange
  simp only [getLsbD_iff, decide_eq_true_eq]
  split <;> simp only [decide_eq_true_eq, decide_eq_false_iff_not] at * <;> split_ifs <;> first | rfl | omega

/-! ### Byte access -/

theorem readByte_gated {s : State} (a : Addr) (h : s.tip = true) : readByte a s = .ok gateByte := by
  simp [readByte, h]

theorem readByte_open {s : State} (a : Addr) (h : s.tip = false) : readByte a s = ungatedRead a s := by
  simp [readByte, h]

theorem writeByte_gated {s : State} (a : Addr) (v : Byte) (h : s.tip = true) : writeByte a v s = s := by
  simp [writeByte, h]

theorem writeByte_open {s : State} (a : Addr) (v : Byte) (h : s.tip = false) :
    writeByte a v s = ungatedWrite a v s := by
  simp [writeByte, h]

/-- A write in the control range is `ApplyWrite` (R119). -/
theorem ungatedWrite_control {a : Addr} (v : Byte) (s : State) (h : a.toNat < 0x8000) :
    ungatedWrite a v s = applyWrite a v s := by
  unfold ungatedWrite
  by_cases h0 : a.toNat < 0x4000
  · rw [region_low h0]
  · rw [region_banked (by omega) h]

/-- The None variant stores at the bus address itself (R177). -/
theorem applyWrite_none {s : State} (a : Addr) (v : Byte) (h : s.bc = .none) :
    applyWrite a v s = storeCell a.toNat v s := by
  simp [applyWrite, h]

/-- A banked variant changes its controller record, of the same variant, and nothing else (R195). -/
theorem applyWrite_banked {s : State} (a : Addr) (v : Byte) (h : s.bc ≠ .none) :
    ∃ bc', bc'.variant = s.bc.variant ∧ applyWrite a v s = { s with bc := bc' } := by
  obtain ⟨params, storage, io, ie, ab, tip, bc, pending, rsp⟩ := s
  cases bc with
  | none => exact absurd rfl h
  | type1 r => exact ⟨.type1 (r.applyWrite (controlRange a) v), rfl, rfl⟩
  | type2 r => exact ⟨.type2 (r.applyWrite (controlRange a) v), rfl, rfl⟩
  | type3 r => exact ⟨.type3 (r.applyWrite (controlRange a) v), rfl, rfl⟩
  | type5 r => exact ⟨.type5 (r.applyWrite (controlRange a) v), rfl, rfl⟩

/-- Everything a byte write can do: nothing (R118), one storage cell (R120, R177), one I/O cell (R121), `IE` (R122), or the
controller's registers (R119). -/
theorem writeByte_cases (a : Addr) (v : Byte) (s : State) :
    (s.tip = true ∧ writeByte a v s = s) ∨
    (s.tip = false ∧ 0x8000 ≤ a.toNat ∧ a.toNat < 0xFF00 ∧ writeByte a v s = storeCell a.toNat v s) ∨
    (s.tip = false ∧ 0xFF00 ≤ a.toNat ∧ a.toNat < 0xFFFF ∧ writeByte a v s = storeIo (a.toNat - 0xFF00) v s) ∨
    (s.tip = false ∧ a = 0xFFFF#16 ∧ writeByte a v s = { s with ie := v }) ∨
    (s.tip = false ∧ a.toNat < 0x8000 ∧ s.bc = .none ∧ writeByte a v s = storeCell a.toNat v s) ∨
    (s.tip = false ∧ a.toNat < 0x8000 ∧ s.bc ≠ .none ∧
      ∃ bc', bc'.variant = s.bc.variant ∧ writeByte a v s = { s with bc := bc' }) := by
  by_cases ht : s.tip = true
  · exact .inl ⟨ht, writeByte_gated a v ht⟩
  · rw [Bool.not_eq_true] at ht
    rw [writeByte_open a v ht]
    by_cases h1 : a.toNat < 0x8000
    · rw [ungatedWrite_control v s h1]
      by_cases hbc : s.bc = .none
      · exact .inr (.inr (.inr (.inr (.inl ⟨ht, h1, hbc, applyWrite_none a v hbc⟩))))
      · exact .inr (.inr (.inr (.inr (.inr ⟨ht, h1, hbc, applyWrite_banked a v hbc⟩))))
    · by_cases h2 : a.toNat < 0xFF00
      · exact .inr (.inl ⟨ht, by omega, h2, by unfold ungatedWrite; rw [region_high (by omega) h2]⟩)
      · by_cases h3 : a.toNat < 0xFFFF
        · exact .inr (.inr (.inl ⟨ht, by omega, h3, by
            unfold ungatedWrite; rw [region_io (by omega) h3]; rfl⟩))
        · have hlt := a.isLt
          have ha : a = 0xFFFF#16 := by rw [← BitVec.toNat_inj, BitVec.toNat_ofNat]; omega
          exact .inr (.inr (.inr (.inl ⟨ht, ha, by subst ha; unfold ungatedWrite; rw [region_ie]⟩)))

/-- Whatever a byte write does, it leaves the fields that no byte write owns. -/
theorem writeByte_frame (a : Addr) (v : Byte) (s : State) :
    (writeByte a v s).params = s.params ∧ (writeByte a v s).ab = s.ab ∧ (writeByte a v s).tip = s.tip ∧
    (writeByte a v s).pending = s.pending ∧ (writeByte a v s).rsp = s.rsp ∧
    (writeByte a v s).bc.variant = s.bc.variant := by
  rcases writeByte_cases a v s with h | h | h | h | h | h
  · rw [h.2]; simp
  · rw [h.2.2.2]; simp
  · rw [h.2.2.2]; simp
  · rw [h.2.2]; simp
  · rw [h.2.2.2]; simp
  · obtain ⟨-, -, -, bc', hv, h⟩ := h
    rw [h]; simp [hv]

@[simp] theorem writeByte_params (a : Addr) (v : Byte) (s : State) : (writeByte a v s).params = s.params :=
  (writeByte_frame a v s).1

@[simp] theorem writeByte_ab (a : Addr) (v : Byte) (s : State) : (writeByte a v s).ab = s.ab :=
  (writeByte_frame a v s).2.1

@[simp] theorem writeByte_tip (a : Addr) (v : Byte) (s : State) : (writeByte a v s).tip = s.tip :=
  (writeByte_frame a v s).2.2.1

@[simp] theorem writeByte_pending (a : Addr) (v : Byte) (s : State) : (writeByte a v s).pending = s.pending :=
  (writeByte_frame a v s).2.2.2.1

@[simp] theorem writeByte_rsp (a : Addr) (v : Byte) (s : State) : (writeByte a v s).rsp = s.rsp :=
  (writeByte_frame a v s).2.2.2.2.1

@[simp] theorem writeByte_variant (a : Addr) (v : Byte) (s : State) :
    (writeByte a v s).bc.variant = s.bc.variant :=
  (writeByte_frame a v s).2.2.2.2.2

/-- The halves of a word, put back together. -/
@[simp] theorem wordOf_halves (w : Word) : wordOf (hiByte w) (loByte w) = w := by
  apply BitVec.eq_of_getLsbD_eq
  intro i hi
  interval_cases i <;> simp [wordOf, hiByte, loByte]

/-- A word's second address, in numbers. -/
theorem secondAddr_toNat (a : Addr) : (secondAddr a).toNat = (a.toNat + 1) % 0x10000 := by
  simp [secondAddr, BitVec.toNat_add]

/-- The source of byte `i` of a transfer never leaves 16 bits (R90). -/
theorem dmaSource_toNat (p : Byte) {i : Nat} (h : i < dmaLen) : (dmaSource p i).toNat = p.toNat * 256 + i := by
  have := p.isLt
  unfold dmaLen at h
  simp only [dmaSource, BitVec.toNat_ofNat, Nat.shiftLeft_eq]
  omega

/-- The destination of byte `i` of a transfer never leaves 16 bits (R90). -/
theorem dmaDest_toNat {i : Nat} (h : i < dmaLen) : (dmaDest i).toNat = 0xFE00 + i := by
  unfold dmaLen at h
  simp only [dmaDest, BitVec.toNat_ofNat]
  omega

/-! ### The block transfer -/

/-- With the gate closed and the copy going through it, an iteration does nothing (R163). -/
theorem copyStep_gated {s : State} (p : Byte) (i : Nat) (hm : s.params.dmaMode = .selfBlocking) (ht : s.tip = true) :
    copyStep p i s = .ok s := by
  simp [copyStep, copyRead, copyWrite, hm, readByte_gated _ ht, writeByte_gated _ _ ht]

theorem copyLoop_gated {s : State} (p : Byte) (n i : Nat) (hm : s.params.dmaMode = .selfBlocking)
    (ht : s.tip = true) : copyLoop p n i s = .ok s := by
  induction n generalizing i with
  | zero => rfl
  | succ n ih => simp [copyLoop, copyStep_gated p i hm ht, ih]

/-- Whatever an iteration does, it changes the storage only, and there only its own destination, or nothing. -/
theorem copyStep_frame {s t : State} {p : Byte} {i : Nat} (hm : s.params.dmaMode = .bypass)
    (h : copyStep p i s = .ok t) :
    ∃ v, ungatedRead (dmaSource p i) s = .ok v ∧ t = storeCell (dmaDest i).toNat v s := by
  unfold copyStep at h
  simp only [copyRead, copyWrite, hm] at h
  split at h
  · cases h
  · rename_i v hv
    cases h
    exact ⟨v, hv, rfl⟩

/-- The loop past the gate changes the storage only, and only in the destination range. -/
theorem copyLoop_frame {s t : State} {p : Byte} {n i : Nat} (hm : s.params.dmaMode = .bypass) (hn : i + n ≤ dmaLen)
    (h : copyLoop p n i s = .ok t) :
    t = { s with storage := t.storage } ∧
    ∀ k, k < 0xFE00 + i ∨ 0xFE00 + i + n ≤ k → t.storage.read k = s.storage.read k := by
  induction n generalizing i s with
  | zero => cases h; exact ⟨rfl, fun _ _ => rfl⟩
  | succ n ih =>
    unfold copyLoop at h
    split at h
    · cases h
    · rename_i s' hs'
      obtain ⟨v, -, rfl⟩ := copyStep_frame hm hs'
      obtain ⟨h1, h2⟩ := ih (s := storeCell (dmaDest i).toNat v s) hm (by omega) h
      refine ⟨by rw [h1]; rfl, fun k hk => ?_⟩
      rw [h2 k (by omega), storeCell_storage, Memory.read_write_other]
      rw [dmaDest_toNat (by omega)]
      omega

/-! ### Rows that share a command's words -/

/-- A read row whose own byte is its region's read is the command `read_byte`. -/
theorem readRow_eq {reg : Region} {own : Except Fault Byte} {a : Addr} {s : State}
    (h : region a = reg → own = ungatedRead a s) : readRow reg own a s = respondByte (readByte a s) s := by
  unfold readRow
  split
  · rename_i hc
    simp only [Bool.and_eq_true, Bool.not_eq_true', beq_iff_eq] at hc
    rw [h hc.2, readByte_open a hc.1]
  · rfl

/-- A write row whose own effect is its region's write is the command `write_byte`. -/
theorem writeRow_eq {sel : Bool} {own : State} {a : Addr} {v : Byte} {s : State}
    (h : sel = true → own = ungatedWrite a v s) : writeRow sel own a v s = respond .unit (writeByte a v s) := by
  unfold writeRow
  split
  · rename_i hc
    simp only [Bool.and_eq_true, Bool.not_eq_true'] at hc
    rw [h hc.2, writeByte_open a v hc.1]
  · rfl

theorem inRange_iff {lo hi : Nat} {a : Addr} : a.inRange lo hi = true ↔ lo ≤ a.toNat ∧ a.toNat < hi := by
  simp [Addr.inRange]

end Sys2Proof.Machine
end

