-- ==== Sys2Proof/Laws/Bus.lean ====
section
/-! SUPPORT. The byte read in numbers: with the gate open it gives `busByte` where the address is `Readable`, and the
out-of-range outcome where it is not. -/

namespace Sys2Proof.Machine

open Sys2Proof

/-- With the gate open, a readable address reads as the address map says (R51, R110). -/
theorem ungatedRead_busByte {s : State} {a : Addr} (h : Readable s a.toNat) :
    ungatedRead a s = .ok (busByte s a.toNat) := by
  have hlt := a.isLt
  unfold ungatedRead busByte
  rw [region_eq]
  by_cases h1 : a.toNat < 0x4000
  · simp only [h1, if_true]
  by_cases h2 : a.toNat < 0x8000
  · simp only [h1, h2, if_true, if_false, bankedRead, readAtIndex]
    by_cases he : effectiveIndex s ≤ 2
    · rw [if_pos (by unfold effectiveAddr; omega), Nat.mod_eq_of_lt (by omega)]
      rfl
    · have ho : s.params.oorPolicy = .wrap16 := by
        rcases h with h | h | h | h
        · omega
        · omega
        · exact absurd h he
        · exact h
      by_cases hs : effectiveAddr a (effectiveIndex s) < 0x10000
      · rw [if_pos hs]
        exact congrArg (fun k => Except.ok (s.storage.read k)) (Nat.mod_eq_of_lt hs).symm
      · rw [if_neg hs, ho]
        rfl
  by_cases h3 : a.toNat < 0xFF00
  · rw [if_neg h1, if_neg h2, if_pos h3, if_neg h1, if_neg h2, if_pos h3]
  by_cases h4 : a.toNat < 0xFFFF
  · rw [if_neg h1, if_neg h2, if_neg h3, if_pos h4, if_neg h1, if_neg h2, if_neg h3, if_pos h4]
    rfl
  · rw [if_neg h1, if_neg h2, if_neg h3, if_neg h4, if_neg h1, if_neg h2, if_neg h3, if_neg h4]

/-- An address that is not readable is in the banked window, beyond storage, under `OOR_POLICY = Fault` (R212). -/
theorem ungatedRead_outOfRange {s : State} {a : Addr} (h : ¬ Readable s a.toNat) :
    ungatedRead a s = .error (.bankedReadOutOfRange a (effectiveIndex s)) := by
  simp only [Readable, not_or, Nat.not_lt, Nat.not_le] at h
  obtain ⟨h1, h2, h3, h4⟩ := h
  have ho : s.params.oorPolicy = .fault := by
    cases hp : s.params.oorPolicy
    · rfl
    · exact absurd hp h4
  unfold ungatedRead
  rw [region_banked h1 h2]
  simp only [bankedRead, readAtIndex]
  rw [if_neg (by unfold effectiveAddr; omega), ho]

theorem readByte_busByte {s : State} {a : Addr} (ht : s.tip = false) (h : Readable s a.toNat) :
    readByte a s = .ok (busByte s a.toNat) := by
  rw [readByte_open a ht, ungatedRead_busByte h]

theorem readByte_outOfRange {s : State} {a : Addr} (ht : s.tip = false) (h : ¬ Readable s a.toNat) :
    readByte a s = .error (.bankedReadOutOfRange a (effectiveIndex s)) := by
  rw [readByte_open a ht, ungatedRead_outOfRange h]

/-- A word is its high byte before its low byte (R91). -/
theorem wordOf_eq_append (hi lo : Byte) : wordOf hi lo = hi ++ lo := by
  apply BitVec.eq_of_getLsbD_eq
  intro i h
  rw [BitVec.getLsbD_append]
  interval_cases i <;> simp [wordOf]

/-- The effective index does not depend on the storage, the I/O registers, `IE` or the model's own fields. -/
theorem effectiveIndex_congr {s t : State} (hp : t.params = s.params) (hb : t.bc = s.bc) (ha : t.ab = s.ab) :
    effectiveIndex t = effectiveIndex s := by
  simp [effectiveIndex, requestedBank, hp, hb, ha]

/-! ### The address map, range by range (R51) -/

theorem busByte_low {s : State} {a : Nat} (h : a < 0x4000) : busByte s a = s.storage.read a := by simp [busByte, h]

theorem busByte_banked {s : State} {a : Nat} (h : 0x4000 ≤ a) (h' : a < 0x8000) :
    busByte s a = s.storage.read ((a + effectiveIndex s * 0x4000) % 0x10000) := by
  rw [busByte, if_neg (by omega), if_pos h']

theorem busByte_high {s : State} {a : Nat} (h : 0x8000 ≤ a) (h' : a < 0xFF00) :
    busByte s a = s.storage.read a := by
  rw [busByte, if_neg (by omega), if_neg (by omega), if_pos h']

theorem busByte_io {s : State} {a : Nat} (h : 0xFF00 ≤ a) (h' : a < 0xFFFF) :
    busByte s a = s.io.read (a - 0xFF00) := by
  rw [busByte, if_neg (by omega), if_neg (by omega), if_neg (by omega), if_pos h']

theorem busByte_ie (s : State) : busByte s 0xFFFF = s.ie := rfl

/-! ### Byte writes, region by region -/

theorem writeByte_control {s : State} {a : Addr} {v : Byte} (ht : s.tip = false) (h : a.toNat < 0x8000) :
    writeByte a v s = applyWrite a v s := by
  rw [writeByte_open _ v ht, ungatedWrite_control v s h]

theorem writeByte_high {s : State} {a : Addr} {v : Byte} (ht : s.tip = false) (h : 0x8000 ≤ a.toNat)
    (h' : a.toNat < 0xFF00) : writeByte a v s = storeCell a.toNat v s := by
  rw [writeByte_open a v ht, ungatedWrite, region_high h h']

theorem writeByte_io {s : State} {a : Addr} {v : Byte} (ht : s.tip = false) (h : 0xFF00 ≤ a.toNat)
    (h' : a.toNat < 0xFFFF) : writeByte a v s = storeIo (a.toNat - 0xFF00) v s := by
  rw [writeByte_open a v ht, ungatedWrite, region_io h h']
  rfl

theorem writeByte_ie {s : State} {v : Byte} (ht : s.tip = false) : writeByte 0xFFFF#16 v s = { s with ie := v } := by
  rw [writeByte_open _ v ht, ungatedWrite, region_ie]

/-! ### What a byte write leaves, field by field -/

theorem writeByte_storage_other {s : State} {a : Addr} {v : Byte} {k : Nat} (hk : k ≠ a.toNat) :
    (writeByte a v s).storage.read k = s.storage.read k := by
  rcases writeByte_cases a v s with h | h | h | h | h | h
  · rw [h.2]
  · rw [h.2.2.2]; exact Memory.read_write_other _ _ hk
  · rw [h.2.2.2]; rfl
  · rw [h.2.2]
  · rw [h.2.2.2]; exact Memory.read_write_other _ _ hk
  · obtain ⟨-, -, -, bc', -, h⟩ := h; rw [h]

theorem writeByte_io_other {s : State} {a : Addr} {v : Byte} {k : Nat} (hk : k + 0xFF00 ≠ a.toNat) :
    (writeByte a v s).io.read k = s.io.read k := by
  rcases writeByte_cases a v s with h | h | h | h | h | h
  · rw [h.2]
  · rw [h.2.2.2]; rfl
  · rw [h.2.2.2]; exact Memory.read_write_other _ _ (by omega)
  · rw [h.2.2]
  · rw [h.2.2.2]; rfl
  · obtain ⟨-, -, -, bc', -, h⟩ := h; rw [h]

theorem writeByte_ie_other {s : State} {a : Addr} {v : Byte} (ha : a ≠ 0xFFFF#16) : (writeByte a v s).ie = s.ie := by
  rcases writeByte_cases a v s with h | h | h | h | h | h
  · rw [h.2]
  · rw [h.2.2.2]; rfl
  · rw [h.2.2.2]; rfl
  · exact absurd h.2.1 ha
  · rw [h.2.2.2]; rfl
  · obtain ⟨-, -, -, bc', -, h⟩ := h; rw [h]

theorem writeByte_bc_other {s : State} {a : Addr} {v : Byte} (ha : 0x8000 ≤ a.toNat) : (writeByte a v s).bc = s.bc := by
  rcases writeByte_cases a v s with h | h | h | h | h | h
  · rw [h.2]
  · rw [h.2.2.2]; rfl
  · rw [h.2.2.2]; rfl
  · rw [h.2.2]
  · rw [h.2.2.2]; rfl
  · omega

/-- A byte write keeps the arrays canonical. -/
theorem writeByte_wf {s : State} (a : Addr) (v : Byte) (h : s.wf = true) : (writeByte a v s).wf = true := by
  have hlt := a.isLt
  simp only [State.wf, Bool.and_eq_true] at h ⊢
  obtain ⟨⟨h1, h2⟩, h3⟩ := h
  rcases writeByte_cases a v s with e | e | e | e | e | e
  · rw [e.2]; exact ⟨⟨h1, h2⟩, h3⟩
  · rw [e.2.2.2]; exact ⟨⟨Memory.write_wf _ h1 (by omega), h2⟩, h3⟩
  · rw [e.2.2.2]; exact ⟨⟨h1, Memory.write_wf _ h2 (by omega)⟩, h3⟩
  · rw [e.2.2]; exact ⟨⟨h1, h2⟩, h3⟩
  · rw [e.2.2.2]; exact ⟨⟨Memory.write_wf _ h1 (by omega), h2⟩, h3⟩
  · obtain ⟨-, -, -, bc', -, e⟩ := e; rw [e]; exact ⟨⟨h1, h2⟩, h3⟩

end Sys2Proof.Machine
end

