-- ==== Sys2Proof/Laws/Decoding.lean ====
section
/-! SUPPORT. The laws of decoding: the fields of an assembled command word, the kind codes, and what each operation code
decodes to. -/

namespace Sys2Proof

@[simp] theorem Command.op_assemble (op : BitVec 4) (a : Addr) (d : Word) : (Command.assemble op a d).op = op := by
  apply BitVec.eq_of_getLsbD_eq
  intro i hi
  interval_cases i <;> simp [Command.op, Command.assemble]

@[simp] theorem Command.addr_assemble (op : BitVec 4) (a : Addr) (d : Word) : (Command.assemble op a d).addr = a := by
  apply BitVec.eq_of_getLsbD_eq
  intro i hi
  interval_cases i <;> simp [Command.addr, Command.assemble]

@[simp] theorem Command.data_assemble (op : BitVec 4) (a : Addr) (d : Word) : (Command.assemble op a d).data = d := by
  apply BitVec.eq_of_getLsbD_eq
  intro i hi
  interval_cases i <;> simp [Command.data, Command.assemble]

@[simp] theorem Command.assemble_fields (w : Command) : Command.assemble w.op w.addr w.data = w := by
  apply BitVec.eq_of_getLsbD_eq
  intro i hi
  interval_cases i <;>
    simp [Command.op, Command.addr, Command.data, Command.assemble]

@[simp] theorem Kind.ofCode_code (k : Kind) : Kind.ofCode k.code = some k := by cases k <;> rfl

theorem Kind.code_of_ofCode {c : BitVec 3} {k : Kind} (h : Kind.ofCode c = some k) : k.code = c := by
  revert c k
  decide

/-- A kind command decodes exactly through the kind its code names. -/
theorem decodeKind_ok {w : Command} {make : Kind → Instr} {i : Instr} (h : decodeKind w make = .ok i) :
    ∃ k, Kind.ofCode w.kindOperand = some k ∧ i = make k := by
  unfold decodeKind at h
  split at h
  · cases h; exact ⟨_, ‹_›, rfl⟩
  · cases h

/-- Everything the command port can decode to (R82, R83). -/
theorem decodeCommand_cases {w : Command} {i : Instr} (h : decodeCommand w = .ok i) :
    (w.op = 0#4 ∧ i = .readByte w.addr) ∨ (w.op = 1#4 ∧ i = .writeByte w.addr w.byteOperand) ∨
    (w.op = 2#4 ∧ i = .readWord w.addr) ∨ (w.op = 3#4 ∧ i = .writeWord w.addr w.data) ∨
    (w.op = 4#4 ∧ i = .setBank w.byteOperand) ∨
    (w.op = 5#4 ∧ ∃ k, Kind.ofCode w.kindOperand = some k ∧ i = .checkInterrupt k) ∨
    (w.op = 6#4 ∧ ∃ k, Kind.ofCode w.kindOperand = some k ∧ i = .triggerInterrupt k) ∨
    (w.op = 7#4 ∧ i = .dmaTransfer w.byteOperand) ∨
    (8 ≤ w.op.toNat ∧ i = .reserved w.op w.addr w.data) := by
  unfold decodeCommand at h
  split_ifs at h with h0 h1 h2 h3 h4 h5 h6 h7
  · cases h; simp [h0]
  · cases h; simp [h1]
  · cases h; simp [h2]
  · cases h; simp [h3]
  · cases h; simp [h4]
  · obtain ⟨k, hk, rfl⟩ := decodeKind_ok h; simp [h5, hk]
  · obtain ⟨k, hk, rfl⟩ := decodeKind_ok h; simp [h6, hk]
  · cases h; simp [h7]
  · cases h
    have : 8 ≤ w.op.toNat := by
      generalize w.op = o at *
      bv_omega
    simp [this]

/-- Everything the strap can decode to (R86). -/
theorem decodeStrap_cases {tag : StrapTag} {i : Instr} (h : decodeStrap tag = .ok i) :
    (tag = 0#3 ∧ i = .variantNone) ∨ (tag = 1#3 ∧ i = .variantType1) ∨ (tag = 2#3 ∧ i = .variantType2) ∨
    (tag = 3#3 ∧ i = .variantType3) ∨ (tag = 5#3 ∧ i = .variantType5) := by
  unfold decodeStrap at h
  split_ifs at h <;> cases h <;> simp_all

/-- A mask acts field by field. -/
theorem Command.and_mask (w m : Command) :
    w &&& m = Command.assemble (w.op &&& m.op) (w.addr &&& m.addr) (w.data &&& m.data) := by
  apply BitVec.eq_of_getLsbD_eq
  intro i hi
  interval_cases i <;> simp [Command.op, Command.addr, Command.data, Command.assemble]

/-- The byte operand, widened, is the low byte of `data`. -/
theorem Command.byteOperand_setWidth (w : Command) : w.byteOperand.setWidth 16 = w.data &&& 0x00FF#16 := by
  apply BitVec.eq_of_getLsbD_eq
  intro i hi
  interval_cases i <;> simp [Command.byteOperand]

/-- The kind operand, widened, is the low three bits of `data`. -/
theorem Command.kindOperand_setWidth (w : Command) : w.kindOperand.setWidth 16 = w.data &&& 0x0007#16 := by
  apply BitVec.eq_of_getLsbD_eq
  intro i hi
  interval_cases i <;> simp [Command.kindOperand]

theorem Command.op_toNat (w : Command) : w.op.toNat = w.toNat / 2 ^ 32 := by
  have := w.isLt
  simp only [Command.op, BitVec.extractLsb'_toNat, Nat.shiftRight_eq_div_pow]
  omega

end Sys2Proof
end

