-- ==== Sys2Proof/Laws/Exec.lean ====
section
/-! SUPPORT. What an operation that goes on has done: one inversion lemma per command, and the commands that every
operation comes down to. -/

namespace Sys2Proof.Machine

open Sys2Proof

/-- Every operation but a construction has one of the nine CMD rows as its command. -/
theorem command_cases (i : Instr) (h : i.isStrap = false) :
    (∃ a, i.command = .readByte a) ∨ (∃ a v, i.command = .writeByte a v) ∨ (∃ a, i.command = .readWord a) ∨
    (∃ a w, i = .writeWord a w) ∨ (∃ b, i = .setBank b) ∨ (∃ k, i = .checkInterrupt k) ∨
    (∃ k, i = .triggerInterrupt k) ∨ (∃ p, i = .dmaTransfer p) ∨ (∃ o a d, i = .reserved o a d) := by
  cases i <;> simp_all [Instr.isStrap, Instr.command]

/-- A construction is one of the five. -/
theorem strap_cases (i : Instr) (h : i.isStrap = true) : ∃ v, ∀ s : State, exec i s = constructInstance v s := by
  cases i <;> simp only [Instr.isStrap, Bool.false_eq_true] at h
  · exact ⟨.none, fun _ => rfl⟩
  · exact ⟨.type1, fun _ => rfl⟩
  · exact ⟨.type2, fun _ => rfl⟩
  · exact ⟨.type3, fun _ => rfl⟩
  · exact ⟨.type5, fun _ => rfl⟩

theorem exec_readByte (a : Addr) (s : State) : exec (.readByte a) s = respondByte (readByte a s) s := rfl

theorem exec_writeByte (a : Addr) (v : Byte) (s : State) :
    exec (.writeByte a v) s = .next { writeByte a v s with rsp := .unit } := rfl

theorem exec_writeWord {a : Addr} {w : Word} {s : State} (h : a ≠ 0xFFFF#16) :
    exec (.writeWord a w) s = .next { writePair a w s with rsp := .unit } := by
  show respondUnit (writeWord a w s) = _
  simp [writeWord, wordStops, h, respondUnit, respond]

theorem next_of_readByte {a : Addr} {s t : State} (h : exec (.readByte a) s = .next t) : t = { s with rsp := t.rsp } := by
  rw [exec_readByte] at h
  unfold respondByte at h
  split at h <;> cases h
  rfl

theorem next_of_readWord {a : Addr} {s t : State} (h : exec (.readWord a) s = .next t) : t = { s with rsp := t.rsp } := by
  change respondWord _ _ = _ at h
  unfold respondWord at h
  split at h <;> cases h
  rfl

theorem next_of_writeByte {a : Addr} {v : Byte} {s t : State} (h : exec (.writeByte a v) s = .next t) :
    t = { writeByte a v s with rsp := .unit } := by
  rw [exec_writeByte] at h
  cases h
  rfl

theorem next_of_writeWord {a : Addr} {w : Word} {s t : State} (h : exec (.writeWord a w) s = .next t) :
    t = { writePair a w s with rsp := .unit } := by
  change respondUnit (writeWord a w s) = _ at h
  unfold writeWord at h
  split at h <;> cases h
  rfl

theorem next_of_dmaTransfer {p : Byte} {s t : State} (h : exec (.dmaTransfer p) s = .next t) :
    ∃ u, dmaTransfer p s = .ok u ∧ t = { u with rsp := .unit } := by
  change respondUnit (dmaTransfer p s) = _ at h
  unfold respondUnit at h
  split at h <;> cases h
  exact ⟨_, ‹_›, rfl⟩

/-- The response is read by nothing. -/
theorem readByte_rsp (a : Addr) (s : State) (r : Response) : readByte a { s with rsp := r } = readByte a s := rfl

/-- A byte write neither reads nor writes the response. -/
theorem writeByte_of_rsp (a : Addr) (v : Byte) (s : State) (r : Response) :
    writeByte a v { s with rsp := r } = { writeByte a v s with rsp := r } := by
  obtain ⟨params, storage, io, ie, ab, tip, bc, pending, rsp⟩ := s
  cases tip with
  | true => rfl
  | false =>
    rw [writeByte_open _ _ rfl, writeByte_open _ _ rfl]
    unfold ungatedWrite
    cases region a <;> first | rfl | (cases bc <;> rfl)

/-- A block transfer under the self-blocking gate, issued with the gate open, ends where it began. -/
theorem dmaTransfer_selfBlocking {s : State} (p : Byte) (ht : s.tip = false) (hm : s.params.dmaMode = .selfBlocking) :
    dmaTransfer p s = .ok s := by
  unfold dmaTransfer
  rw [copyLoop_gated (s := { s with tip := true }) p _ _ hm rfl]
  obtain ⟨params, storage, io, ie, ab, tip, bc, pending, rsp⟩ := s
  cases ht
  rfl

/-- Whatever a block transfer does, it changes storage cells of `[0xFE00, 0xFEA0)` and nothing else. -/
theorem dmaTransfer_frame {s t : State} {p : Byte} (h : dmaTransfer p s = .ok t) :
    t = { s with storage := t.storage } ∧ (∀ k, k < 0xFE00 ∨ 0xFEA0 ≤ k → t.storage.read k = s.storage.read k) ∧
    (s.params.dmaMode = .selfBlocking → t = s) := by
  by_cases ht : s.tip = true
  · rw [show dmaTransfer p s = .ok s by simp [dmaTransfer, ht]] at h
    cases h
    exact ⟨rfl, fun _ _ => rfl, fun _ => rfl⟩
  · rw [Bool.not_eq_true] at ht
    cases hm : s.params.dmaMode
    · rw [dmaTransfer_selfBlocking p ht hm] at h
      cases h
      exact ⟨rfl, fun _ _ => rfl, fun _ => rfl⟩
    · unfold dmaTransfer at h
      rw [if_neg (by simp [ht])] at h
      split at h
      · cases h
      · rename_i s' hs
        cases h
        obtain ⟨h1, h2⟩ := copyLoop_frame (s := { s with tip := true }) hm (by simp [dmaLen]) hs
        refine ⟨?_, fun k hk => h2 k (by simpa [dmaLen] using hk), fun h => by cases h⟩
        show { s' with tip := false } = _
        rw [h1]
        simp [← ht]

end Sys2Proof.Machine
end

