-- ==== Sys2Proof/Laws/PerInstr.lean ====
section
/-! SUPPORT. Statements about every operation, one lemma a constructor. `RoundTrip`: the decoder gives back the command that
a well-formed operation's words are. -/

namespace Sys2Proof

/-- A byte operand survives the encoder's widening and the decoder's slice. -/
theorem byteOperand_of_data {w : Command} {v : Byte} (h : w.data = v.setWidth 16) : w.byteOperand = v := by
  unfold Command.byteOperand
  rw [h]
  apply BitVec.eq_of_getLsbD_eq
  intro i hi
  interval_cases i <;> simp

/-- A kind operand survives the encoder's widening and the decoder's slice. -/
theorem decodeKind_of_data {w : Command} {k : Kind} (make : Kind → Instr) (h : w.data = k.code.setWidth 16) :
    decodeKind w make = .ok (make k) := by
  have : w.kindOperand = k.code := by unfold Command.kindOperand; rw [h]; cases k <;> rfl
  simp [decodeKind, this]

@[simp] theorem byteOperand_assemble (op : BitVec 4) (a : Addr) (v : Byte) :
    (Command.assemble op a (v.setWidth 16)).byteOperand = v :=
  byteOperand_of_data (Command.data_assemble _ _ _)

@[simp] theorem decodeKind_assemble (op : BitVec 4) (a : Addr) (k : Kind) (make : Kind → Instr) :
    decodeKind (Command.assemble op a (k.code.setWidth 16)) make = .ok (make k) :=
  decodeKind_of_data make (Command.data_assemble _ _ _)

theorem decodeCommand_of_op_ge {w : Command} (h : 8 ≤ w.op.toNat) :
    decodeCommand w = .ok (.reserved w.op w.addr w.data) := by
  have hne : ∀ c : BitVec 4, c.toNat < 8 → w.op ≠ c := fun c hc he => by rw [he] at h; omega
  simp [decodeCommand, hne]

/-- The words of `read_byte`. -/
theorem decode_readByte (a : Addr) : decode (.command (Command.assemble 0x0#4 a 0#16)) = .ok (.readByte a) := by
  simp [decode, decodeCommand]

/-- The words of `write_byte`. -/
theorem decode_writeByte (a : Addr) (v : Byte) :
    decode (.command (Command.assemble 0x1#4 a (v.setWidth 16))) = .ok (.writeByte a v) := by
  simp [decode, decodeCommand]

namespace Laws.RoundTrip

/-- Decoding what a well-formed operation is encoded as gives the command its words are. -/
def Statement (i : Instr) : Prop := i.wellFormed = true → decode (encode i) = .ok i.command

theorem readByte (addr : Addr) : Statement (.readByte addr) := fun _ => decode_readByte addr
theorem writeByte (addr : Addr) (val : Byte) : Statement (.writeByte addr val) := fun _ => decode_writeByte addr val
theorem readWord (addr : Addr) : Statement (.readWord addr) := fun _ => by simp [decode, encode, decodeCommand, Instr.command]
theorem writeWord (addr : Addr) (val : Word) : Statement (.writeWord addr val) := fun _ => by simp [decode, encode, decodeCommand, Instr.command]
theorem setBank (bank : Byte) : Statement (.setBank bank) := fun _ => by simp [decode, encode, decodeCommand, Instr.command]
theorem checkInterrupt (kind : Kind) : Statement (.checkInterrupt kind) := fun _ => by simp [decode, encode, decodeCommand, Instr.command]
theorem triggerInterrupt (kind : Kind) : Statement (.triggerInterrupt kind) := fun _ => by simp [decode, encode, decodeCommand, Instr.command]
theorem dmaTransfer (sourcePage : Byte) : Statement (.dmaTransfer sourcePage) := fun _ => by simp [decode, encode, decodeCommand, Instr.command]
theorem reserved (op : BitVec 4) (addr : Addr) (data : Word) : Statement (.reserved op addr data) := fun h => by
  have h8 : 8 ≤ (Command.assemble op addr data).op.toNat := by simpa [Instr.wellFormed] using h
  have := decodeCommand_of_op_ge h8
  simpa [decode, encode, Instr.command] using this
theorem readByteIe (addr : Addr) : Statement (.readByteIe addr) := fun _ => decode_readByte addr
theorem readByteIo (addr : Addr) : Statement (.readByteIo addr) := fun _ => decode_readByte addr
theorem readByteHigh (addr : Addr) : Statement (.readByteHigh addr) := fun _ => decode_readByte addr
theorem readByteBanked (addr : Addr) : Statement (.readByteBanked addr) := fun _ => decode_readByte addr
theorem readByteLow (addr : Addr) : Statement (.readByteLow addr) := fun _ => decode_readByte addr
theorem writeByteIe (addr : Addr) (val : Byte) : Statement (.writeByteIe addr val) := fun _ => decode_writeByte addr val
theorem writeByteIo (addr : Addr) (val : Byte) : Statement (.writeByteIo addr val) := fun _ => decode_writeByte addr val
theorem writeByteHigh (addr : Addr) (val : Byte) : Statement (.writeByteHigh addr val) := fun _ => decode_writeByte addr val
theorem writeByteCtl (addr : Addr) (val : Byte) : Statement (.writeByteCtl addr val) := fun _ => decode_writeByte addr val
theorem applyWriteNone (addr : Addr) (val : Byte) : Statement (.applyWriteNone addr val) := fun _ => decode_writeByte addr val
theorem applyWriteType1RamEnable (addr : Addr) (val : Byte) : Statement (.applyWriteType1RamEnable addr val) := fun _ => decode_writeByte addr val
theorem applyWriteType1RomBankLo (addr : Addr) (val : Byte) : Statement (.applyWriteType1RomBankLo addr val) := fun _ => decode_writeByte addr val
theorem applyWriteType1BankHi (addr : Addr) (val : Byte) : Statement (.applyWriteType1BankHi addr val) := fun _ => decode_writeByte addr val
theorem applyWriteType1Mode (addr : Addr) (val : Byte) : Statement (.applyWriteType1Mode addr val) := fun _ => decode_writeByte addr val
theorem applyWriteType2RamEnable (addr : Addr) (val : Byte) : Statement (.applyWriteType2RamEnable addr val) := fun _ => decode_writeByte addr val
theorem applyWriteType2RomBank (addr : Addr) (val : Byte) : Statement (.applyWriteType2RomBank addr val) := fun _ => decode_writeByte addr val
theorem applyWriteType2Nop (addr : Addr) (val : Byte) : Statement (.applyWriteType2Nop addr val) := fun _ => decode_writeByte addr val
theorem applyWriteType3RamEnable (addr : Addr) (val : Byte) : Statement (.applyWriteType3RamEnable addr val) := fun _ => decode_writeByte addr val
theorem applyWriteType3RomBank (addr : Addr) (val : Byte) : Statement (.applyWriteType3RomBank addr val) := fun _ => decode_writeByte addr val
theorem applyWriteType3RamBank (addr : Addr) (val : Byte) : Statement (.applyWriteType3RamBank addr val) := fun _ => decode_writeByte addr val
theorem applyWriteType3Nop (addr : Addr) (val : Byte) : Statement (.applyWriteType3Nop addr val) := fun _ => decode_writeByte addr val
theorem applyWriteType5RamEnable (addr : Addr) (val : Byte) : Statement (.applyWriteType5RamEnable addr val) := fun _ => decode_writeByte addr val
theorem applyWriteType5RomBankLo (addr : Addr) (val : Byte) : Statement (.applyWriteType5RomBankLo addr val) := fun _ => decode_writeByte addr val
theorem applyWriteType5RomBankHi (addr : Addr) (val : Byte) : Statement (.applyWriteType5RomBankHi addr val) := fun _ => decode_writeByte addr val
theorem applyWriteType5RamBank (addr : Addr) (val : Byte) : Statement (.applyWriteType5RamBank addr val) := fun _ => decode_writeByte addr val
theorem applyWriteType5Nop (addr : Addr) (val : Byte) : Statement (.applyWriteType5Nop addr val) := fun _ => decode_writeByte addr val
theorem resolveNone (addr : Addr) : Statement (.resolveNone addr) := fun _ => decode_readByte addr
theorem resolveType1 (addr : Addr) : Statement (.resolveType1 addr) := fun _ => decode_readByte addr
theorem resolveType2 (addr : Addr) : Statement (.resolveType2 addr) := fun _ => decode_readByte addr
theorem resolveType3 (addr : Addr) : Statement (.resolveType3 addr) := fun _ => decode_readByte addr
theorem resolveType5 (addr : Addr) : Statement (.resolveType5 addr) := fun _ => decode_readByte addr
theorem variantNone : Statement (.variantNone) := fun _ => rfl
theorem variantType1 : Statement (.variantType1) := fun _ => rfl
theorem variantType2 : Statement (.variantType2) := fun _ => rfl
theorem variantType3 : Statement (.variantType3) := fun _ => rfl
theorem variantType5 : Statement (.variantType5) := fun _ => rfl

end Laws.RoundTrip

end Sys2Proof
end

