-- ==== Sys2Proof/Tests/Slice0.lean ====
section
/-! SUPPORT. The model's own tests. Expected results are the vectors of spec/95_test_vectors.md (their ids stand in the
comments) or are written out from the encoding tables of spec/30_encoding.md. Then, for each statement with hypotheses,
states and operands that meet them. -/

namespace Sys2Proof.Tests

open Sys2Proof Sys2Proof.Machine

/-! ### Small states, and one field of a result -/

/-- The reset state with another controller record. -/
def inst (bc : Controller) : State := { State.reset with bc := bc }

def ofType1 (romBank : BitVec 7) (ramBank : BitVec 2) (ramEnable mode : Bool) : State :=
  inst (.type1 ⟨romBank, ramBank, ramEnable, mode⟩)

def ofType2 (romBank : BitVec 4) (ramEnable : Bool) : State := inst (.type2 ⟨romBank, ramEnable⟩)

def ofType3 (romBank : BitVec 7) (ramBank : BitVec 2) (ramEnable : Bool) : State :=
  inst (.type3 ⟨romBank, ramBank, ramEnable⟩)

def ofType5 (romBank : BitVec 9) (ramBank : BitVec 4) (ramEnable : Bool) : State :=
  inst (.type5 ⟨romBank, ramBank, ramEnable⟩)

/-- A state with storage cells set and a bank selected. -/
def holding (cells : Memory) (ab : Byte) (s : State) : State := { s with storage := cells, ab := ab }

def withIo (cells : Memory) (ie : Byte) (s : State) : State := { s with io := cells, ie := ie }

def wrapping (s : State) : State := { s with params := { s.params with oorPolicy := .wrap16, wordWrap := .wrap16 } }

def bypassing (s : State) : State := { s with params := { s.params with dmaMode := .bypass } }

def perKind (s : State) : State := { s with params := { s.params with ifMode := .perKind } }

def byRomBank (s : State) : State := { s with params := { s.params with bankAuthority := .controllerRomBank } }

/-- One step with a command word presented. -/
def run (w : Nat) (s : State) : Host.Outcome State Fault Refusal := step (s.withFetchWord 40 w)

def after {α : Type} (f : State → α) : Host.Outcome State Fault Refusal → Option α
  | .next s => some (f s)
  | .fault _ => none
  | .refused _ => none

def stopped : Host.Outcome State Fault Refusal → Option Fault
  | .next _ => none
  | .fault f => some f
  | .refused _ => none

def refusedBy : Host.Outcome State Fault Refusal → Option Refusal
  | .next _ => none
  | .fault _ => none
  | .refused r => some r

abbrev response (o : Host.Outcome State Fault Refusal) : Option Response := after State.rsp o
abbrev cell (k : Nat) (o : Host.Outcome State Fault Refusal) : Option Byte := after (fun s => s.storage.read k) o
abbrev ioCell (k : Nat) (o : Host.Outcome State Fault Refusal) : Option Byte := after (fun s => s.io.read k) o
abbrev controller (o : Host.Outcome State Fault Refusal) : Option Controller := after State.bc o

/-! ### Ill-formed terms are refused -/

theorem test_wellFormed_reserved : (Instr.reserved 0x7#4 0#16 0#16).wellFormed = false := by decide

theorem test_wellFormed_region_reads :
    (Instr.readByteIe 0xFFFE#16).wellFormed = false ∧ (Instr.readByteIo 0xFFFF#16).wellFormed = false ∧
    (Instr.readByteIo 0xFEFF#16).wellFormed = false ∧ (Instr.readByteHigh 0xFF00#16).wellFormed = false ∧
    (Instr.readByteHigh 0x7FFF#16).wellFormed = false ∧ (Instr.readByteBanked 0x8000#16).wellFormed = false ∧
    (Instr.readByteBanked 0x3FFF#16).wellFormed = false ∧ (Instr.readByteLow 0x4000#16).wellFormed = false := by decide

theorem test_wellFormed_region_writes :
    (Instr.writeByteIe 0xFFFE#16 0#8).wellFormed = false ∧ (Instr.writeByteIo 0xFFFF#16 0#8).wellFormed = false ∧
    (Instr.writeByteHigh 0xFF00#16 0#8).wellFormed = false ∧ (Instr.writeByteCtl 0x8000#16 0#8).wellFormed = false ∧
    (Instr.applyWriteNone 0x8000#16 0#8).wellFormed = false := by decide

theorem test_wellFormed_type1 :
    (Instr.applyWriteType1RamEnable 0x2000#16 0#8).wellFormed = false ∧
    (Instr.applyWriteType1RomBankLo 0x1FFF#16 0#8).wellFormed = false ∧
    (Instr.applyWriteType1BankHi 0x6000#16 0#8).wellFormed = false ∧
    (Instr.applyWriteType1Mode 0x5FFF#16 0#8).wellFormed = false := by decide

theorem test_wellFormed_type2 :
    (Instr.applyWriteType2RamEnable 0x2000#16 0#8).wellFormed = false ∧
    (Instr.applyWriteType2RomBank 0x4000#16 0#8).wellFormed = false ∧
    (Instr.applyWriteType2Nop 0x3FFF#16 0#8).wellFormed = false := by decide

theorem test_wellFormed_type3 :
    (Instr.applyWriteType3RamEnable 0x2000#16 0#8).wellFormed = false ∧
    (Instr.applyWriteType3RomBank 0x1FFF#16 0#8).wellFormed = false ∧
    (Instr.applyWriteType3RamBank 0x6000#16 0#8).wellFormed = false ∧
    (Instr.applyWriteType3Nop 0x8000#16 0#8).wellFormed = false := by decide

theorem test_wellFormed_type5 :
    (Instr.applyWriteType5RamEnable 0x2000#16 0#8).wellFormed = false ∧
    (Instr.applyWriteType5RomBankLo 0x3000#16 0#8).wellFormed = false ∧
    (Instr.applyWriteType5RomBankHi 0x2FFF#16 0#8).wellFormed = false ∧
    (Instr.applyWriteType5RamBank 0x6000#16 0#8).wellFormed = false ∧
    (Instr.applyWriteType5Nop 0x5FFF#16 0#8).wellFormed = false := by decide

theorem test_wellFormed_resolve :
    (Instr.resolveNone 0x3FFF#16).wellFormed = false ∧ (Instr.resolveType1 0x8000#16).wellFormed = false ∧
    (Instr.resolveType2 0x3FFF#16).wellFormed = false ∧ (Instr.resolveType3 0x8000#16).wellFormed = false ∧
    (Instr.resolveType5 0x3FFF#16).wellFormed = false := by decide

/-! ### Words written out from the encoding tables (R81 to R88, R92) -/

/-- A table word decodes to an operation. -/
def decodes (w : Nat) (i : Instr) : Bool := decide (decodeTableWord 40 w = some i)

/-- A well-formed row's own word: it decodes to the command the row splits, and is the row's canonical encoding. -/
def isWordOf (w : Nat) (i : Instr) : Bool :=
  i.wellFormed && decodes w i.command && decide (encode i = presented 40 w)

theorem test_decode_bytes : decodes 0x012340000 (.readByte 0x1234#16) = true ∧
    decodes 0x1123400AB (.writeByte 0x1234#16 0xAB#8) = true := by decide

theorem test_decode_words : decodes 0x2C0000000 (.readWord 0xC000#16) = true ∧
    decodes 0x3C000AABB (.writeWord 0xC000#16 0xAABB#16) = true := by decide

theorem test_decode_setBank : decodes 0x4000000FF (.setBank 0xFF#8) = true := by decide

theorem test_decode_checkInterrupt : decodes 0x500000000 (.checkInterrupt .vBlank) = true ∧
    decodes 0x500000001 (.checkInterrupt .lcdStat) = true ∧ decodes 0x500000002 (.checkInterrupt .timer) = true ∧
    decodes 0x500000003 (.checkInterrupt .serial) = true ∧ decodes 0x500000004 (.checkInterrupt .joypad) = true := by
  decide

theorem test_decode_triggerInterrupt : decodes 0x600000000 (.triggerInterrupt .vBlank) = true ∧
    decodes 0x600000004 (.triggerInterrupt .joypad) = true := by decide

theorem test_decode_dmaTransfer : decodes 0x7000000C0 (.dmaTransfer 0xC0#8) = true := by decide

/-- X1, X2. -/
theorem test_decode_reserved : decodes 0x800000000 (.reserved 0x8#4 0#16 0#16) = true ∧
    decodes 0xF1234ABCD (.reserved 0xF#4 0x1234#16 0xABCD#16) = true := by decide

/-- X3, X4: kind codes 5 and 7. -/
theorem test_decode_badKind : decodeTableWord 40 0x500000005 = none ∧ decodeTableWord 40 0x600000007 = none := by decide

/-- X5 to X9: ignored bits. -/
theorem test_decode_ignoredBits : decodes 0x60000000C (.triggerInterrupt .joypad) = true ∧
    decodes 0x0C000BEEF (.readByte 0xC000#16) = true ∧ decodes 0x1C000FF12 (.writeByte 0xC000#16 0x12#8) = true ∧
    decodes 0x4FFFF0102 (.setBank 0x02#8) = true ∧ decodes 0x7ABCD01C0 (.dmaTransfer 0xC0#8) = true := by decide

theorem test_decode_straps : decodeTableWord 8 0 = some .variantNone ∧ decodeTableWord 8 1 = some .variantType1 ∧
    decodeTableWord 8 2 = some .variantType2 ∧ decodeTableWord 8 3 = some .variantType3 ∧
    decodeTableWord 8 5 = some .variantType5 := by decide

/-- X10. -/
theorem test_decode_badTags : decodeTableWord 8 4 = none ∧ decodeTableWord 8 6 = none ∧ decodeTableWord 8 7 = none := by
  decide

theorem test_words_regionReads : isWordOf 0x0FFFF0000 (.readByteIe 0xFFFF#16) = true ∧
    isWordOf 0x0FF000000 (.readByteIo 0xFF00#16) = true ∧ isWordOf 0x080000000 (.readByteHigh 0x8000#16) = true ∧
    isWordOf 0x040000000 (.readByteBanked 0x4000#16) = true ∧ isWordOf 0x03FFF0000 (.readByteLow 0x3FFF#16) = true := by
  decide

theorem test_words_regionWrites : isWordOf 0x1FFFF00E5 (.writeByteIe 0xFFFF#16 0xE5#8) = true ∧
    isWordOf 0x1FFFE0069 (.writeByteIo 0xFFFE#16 0x69#8) = true ∧
    isWordOf 0x1FEFF0067 (.writeByteHigh 0xFEFF#16 0x67#8) = true ∧
    isWordOf 0x140000055 (.writeByteCtl 0x4000#16 0x55#8) = true ∧
    isWordOf 0x17FFF0007 (.applyWriteNone 0x7FFF#16 0x07#8) = true := by decide

theorem test_words_type1 : isWordOf 0x10000000A (.applyWriteType1RamEnable 0x0000#16 0x0A#8) = true ∧
    isWordOf 0x1200000E5 (.applyWriteType1RomBankLo 0x2000#16 0xE5#8) = true ∧
    isWordOf 0x15FFF00FF (.applyWriteType1BankHi 0x5FFF#16 0xFF#8) = true ∧
    isWordOf 0x17FFF00FE (.applyWriteType1Mode 0x7FFF#16 0xFE#8) = true := by decide

theorem test_words_type2 : isWordOf 0x11000000A (.applyWriteType2RamEnable 0x1000#16 0x0A#8) = true ∧
    isWordOf 0x121000037 (.applyWriteType2RomBank 0x2100#16 0x37#8) = true ∧
    isWordOf 0x1700000FF (.applyWriteType2Nop 0x7000#16 0xFF#8) = true := by decide

theorem test_words_type3 : isWordOf 0x10000000A (.applyWriteType3RamEnable 0x0000#16 0x0A#8) = true ∧
    isWordOf 0x120000085 (.applyWriteType3RomBank 0x2000#16 0x85#8) = true ∧
    isWordOf 0x14000000A (.applyWriteType3RamBank 0x4000#16 0x0A#8) = true ∧
    isWordOf 0x160000001 (.applyWriteType3Nop 0x6000#16 0x01#8) = true := by decide

theorem test_words_type5 : isWordOf 0x10000001A (.applyWriteType5RamEnable 0x0000#16 0x1A#8) = true ∧
    isWordOf 0x12FFF00FF (.applyWriteType5RomBankLo 0x2FFF#16 0xFF#8) = true ∧
    isWordOf 0x130000001 (.applyWriteType5RomBankHi 0x3000#16 0x01#8) = true ∧
    isWordOf 0x1400000F7 (.applyWriteType5RamBank 0x4000#16 0xF7#8) = true ∧
    isWordOf 0x1600000FF (.applyWriteType5Nop 0x6000#16 0xFF#8) = true := by decide

theorem test_words_resolve : isWordOf 0x040000000 (.resolveNone 0x4000#16) = true ∧
    isWordOf 0x040000000 (.resolveType1 0x4000#16) = true ∧ isWordOf 0x07FFF0000 (.resolveType2 0x7FFF#16) = true ∧
    isWordOf 0x07FFF0000 (.resolveType3 0x7FFF#16) = true ∧ isWordOf 0x040000000 (.resolveType5 0x4000#16) = true := by
  decide

/-! ### CMD rows, presented at the command port -/

/-- B5. -/
theorem test_readByte_hiddenCell :
    response (run 0x07FFF0000 (holding [(0x7FFF, 0x42#8), (0xFFFF, 0x99#8)] 2#8 State.reset)) = some (.byte 0x99#8) := by
  decide

/-- B16: the gate is tested first. -/
theorem test_readByte_gateFirst :
    response (run 0x040000000 ((holding [] 3#8 State.reset).forceTip true)) = some (.byte 0xFF#8) := by decide

/-- B18: the store is unbanked. -/
theorem test_writeByte_unbanked : cell 0x4000 (run 0x140000055 (holding [] 1#8 State.reset)) = some 0x55#8 ∧
    cell 0x8000 (run 0x140000055 (holding [] 1#8 State.reset)) = some 0x00#8 := by decide

/-- B27: control writes are gated too. -/
theorem test_writeByte_gated :
    controller (run 0x160000001 ((ofType1 0 0 false true).forceTip true)) =
      some (.type1 ⟨0, 0, false, true⟩) := by decide

/-- W3: the high byte is banked. -/
theorem test_readWord_highBanked :
    response (run 0x23FFF0000 (holding [(0x3FFF, 0x11#8), (0x4000, 0x22#8), (0xC000, 0x12#8)] 2#8 State.reset)) =
      some (.word 0x1211#16) := by decide

/-- W21: the high byte faults. -/
theorem test_readWord_fault :
    stopped (run 0x23FFF0000 (holding [(0x3FFF, 0x11#8)] 3#8 State.reset)) =
      some (.bankedReadOutOfRange 0x4000#16 3) := by decide

/-- W4. -/
theorem test_writeWord_type1 :
    cell 0x8000 (run 0x37FFFCD01 (ofType1 0 0 false true)) = some 0xCD#8 ∧
    controller (run 0x37FFFCD01 (ofType1 0 0 false true)) = some (.type1 ⟨0, 0, false, false⟩) := by decide

/-- W13. -/
theorem test_writeWord_wrap :
    after State.ie (run 0x3FFFF0A1F (wrapping (ofType2 0 false))) = some 0x1F#8 ∧
    controller (run 0x3FFFF0A1F (wrapping (ofType2 0 false))) = some (.type2 ⟨0, true⟩) := by decide

/-- K3. -/
theorem test_setBank_ungated : after State.ab (run 0x400000002 (State.reset.forceTip true)) = some 0x02#8 := by decide

/-- I4. -/
theorem test_checkInterrupt_highBits :
    response (run 0x500000004 (withIo [] 0xE0#8 State.reset)) = some (.flag false) := by decide

/-- I14. -/
theorem test_checkInterrupt_ungated :
    response (run 0x500000000 ((withIo [] 0x01#8 State.reset).forceTip true)) = some (.flag true) := by decide

/-- I9. -/
theorem test_triggerInterrupt_keepsBits :
    ioCell 0x0F (run 0x600000004 (withIo [(0x0F, 0xA0#8)] 0x10#8 State.reset)) = some 0xA1#8 := by decide

/-- I12. -/
theorem test_triggerInterrupt_perKind :
    ioCell 0x0F (run 0x600000004 (perKind (withIo [(0x0F, 0x04#8)] 0x1F#8 State.reset))) = some 0x14#8 := by decide

/-- T1. -/
theorem test_dmaTransfer_selfBlocking :
    cell 0xFE00 (run 0x7000000C0 (holding [(0xC000, 0x5A#8), (0xFE00, 0x77#8)] 0#8 State.reset)) = some 0x77#8 := by
  decide

set_option maxRecDepth 20000 in
/-- T7: page 0xFF copies the I/O cells. -/
theorem test_dmaTransfer_bypass :
    cell 0xFE9F (run 0x7000000FF (bypassing (withIo [(0x00, 0x51#8), (0x9F, 0x52#8)] 0#8 State.reset))) =
      some 0x52#8 := by decide

/-- X2. -/
theorem test_reserved : refusedBy (run 0xF1234ABCD State.reset) = some (.invalidCommand 0xF1234ABCD#36) := by decide

/-- X4. -/
theorem test_invalidKind :
    refusedBy (run 0x600000007 (withIo [] 0xFF#8 State.reset)) = some (.invalidCommand 0x600000007#36) := by decide

/-- X10. -/
theorem test_malformedTag : refusedBy (step (State.reset.withFetchWord 8 6)) = some (.malformedVariant 6#3) := by decide

/-! ### REGION rows -/

/-- B13. -/
theorem test_readByteIe :
    response (exec (.readByteIe 0xFFFF#16) (holding [(0xFFFF, 0x98#8)] 0#8 (withIo [(0xFF, 0x99#8)] 0x1F#8 State.reset))) =
      some (.byte 0x1F#8) := by decide

/-- B11. -/
theorem test_readByteIo :
    response (exec (.readByteIo 0xFF00#16) (holding [(0xFF00, 0x99#8)] 0#8 (withIo [(0x00, 0x51#8)] 0#8 State.reset))) =
      some (.byte 0x51#8) := by decide

/-- B10. -/
theorem test_readByteHigh :
    response (exec (.readByteHigh 0xFEFF#16) (holding [(0xFEFF, 0x82#8)] 0#8 State.reset)) = some (.byte 0x82#8) := by
  decide

/-- B4. -/
theorem test_readByteBanked :
    response (exec (.readByteBanked 0x4000#16) (holding [(0x4000, 0x41#8), (0x8000, 0x81#8)] 1#8 State.reset)) =
      some (.byte 0x81#8) := by decide

/-- B8. -/
theorem test_readByteBanked_wrap :
    response (exec (.readByteBanked 0x7FFF#16) (wrapping (holding [(0x3FFF, 0x43#8)] 0xFF#8 State.reset))) =
      some (.byte 0x43#8) := by decide

/-- B2. -/
theorem test_readByteLow :
    response (exec (.readByteLow 0x3FFF#16) (holding [(0x3FFF, 0x32#8)] 3#8 State.reset)) = some (.byte 0x32#8) := by
  decide

/-- B25. -/
theorem test_writeByteIe : after State.ie (exec (.writeByteIe 0xFFFF#16 0xE5#8) State.reset) = some 0xE5#8 := by decide

/-- B23, and B22's untouched storage. -/
theorem test_writeByteIo : ioCell 0x0F (exec (.writeByteIo 0xFF0F#16 0xFF#8) State.reset) = some 0xFF#8 ∧
    cell 0xFF0F (exec (.writeByteIo 0xFF0F#16 0xFF#8) State.reset) = some 0x00#8 := by decide

/-- B21. -/
theorem test_writeByteHigh : cell 0xFEFF (exec (.writeByteHigh 0xFEFF#16 0x67#8) State.reset) = some 0x67#8 := by decide

/-- B19. -/
theorem test_writeByteCtl :
    cell 0x0000 (exec (.writeByteCtl 0x0000#16 0x7F#8) (ofType3 0 0 true)) = some 0x00#8 ∧
    controller (exec (.writeByteCtl 0x0000#16 0x7F#8) (ofType3 0 0 true)) = some (.type3 ⟨0, 0, false⟩) := by decide

/-! ### CTL rows -/

/-- A1. -/
theorem test_applyWriteNone : cell 0x1FFF (exec (.applyWriteNone 0x1FFF#16 0x0A#8) State.reset) = some 0x0A#8 := by decide

/-- A6. -/
theorem test_applyWriteType1RamEnable :
    controller (exec (.applyWriteType1RamEnable 0x1FFF#16 0xA0#8) (ofType1 0 0 true true)) =
      some (.type1 ⟨0, 0, false, true⟩) := by decide

/-- A7. -/
theorem test_applyWriteType1RomBankLo :
    controller (exec (.applyWriteType1RomBankLo 0x2000#16 0xE5#8) (ofType1 0x60 0 false true)) =
      some (.type1 ⟨0x65, 0, false, true⟩) := by decide

/-- A9. -/
theorem test_applyWriteType1BankHi_rom :
    controller (exec (.applyWriteType1BankHi 0x4000#16 0x03#8) (ofType1 0x05 0 false true)) =
      some (.type1 ⟨0x65, 0, false, true⟩) := by decide

/-- A10. -/
theorem test_applyWriteType1BankHi_ram :
    controller (exec (.applyWriteType1BankHi 0x5FFF#16 0xFF#8) (ofType1 0x05 0 false false)) =
      some (.type1 ⟨0x05, 3, false, false⟩) := by decide

/-- A12. -/
theorem test_applyWriteType1Mode :
    controller (exec (.applyWriteType1Mode 0x7FFF#16 0xFE#8) (ofType1 0 0 false false)) =
      some (.type1 ⟨0, 0, false, true⟩) := by decide

/-- A14. -/
theorem test_applyWriteType2RamEnable :
    controller (exec (.applyWriteType2RamEnable 0x1000#16 0x05#8) (ofType2 0 true)) = some (.type2 ⟨0, false⟩) := by decide

/-- A15. -/
theorem test_applyWriteType2RomBank :
    controller (exec (.applyWriteType2RomBank 0x2100#16 0x37#8) (ofType2 0 false)) = some (.type2 ⟨7, false⟩) := by decide

/-- A18. -/
theorem test_applyWriteType2Nop :
    controller (exec (.applyWriteType2Nop 0x7000#16 0xFF#8) (ofType2 7 false)) = some (.type2 ⟨7, false⟩) := by decide

/-- A19. -/
theorem test_applyWriteType3RamEnable :
    controller (exec (.applyWriteType3RamEnable 0x0000#16 0x0A#8) (ofType3 0 0 false)) =
      some (.type3 ⟨0, 0, true⟩) := by decide

/-- A20. -/
theorem test_applyWriteType3RomBank :
    controller (exec (.applyWriteType3RomBank 0x2000#16 0x85#8) (ofType3 0 0 false)) =
      some (.type3 ⟨5, 0, false⟩) := by decide

/-- A22. -/
theorem test_applyWriteType3RamBank :
    controller (exec (.applyWriteType3RamBank 0x4000#16 0x0A#8) (ofType3 0 0 false)) =
      some (.type3 ⟨0, 2, false⟩) := by decide

/-- A23. -/
theorem test_applyWriteType3Nop :
    controller (exec (.applyWriteType3Nop 0x6000#16 0x01#8) (ofType3 0 2 false)) =
      some (.type3 ⟨0, 2, false⟩) := by decide

/-- A24. -/
theorem test_applyWriteType5RamEnable :
    controller (exec (.applyWriteType5RamEnable 0x0000#16 0x1A#8) (ofType5 0 0 false)) =
      some (.type5 ⟨0, 0, true⟩) := by decide

/-- A26: bit 8 is kept. -/
theorem test_applyWriteType5RomBankLo :
    controller (exec (.applyWriteType5RomBankLo 0x2000#16 0x00#8) (ofType5 0x1FF 0 false)) =
      some (.type5 ⟨0x100, 0, false⟩) := by decide

/-- A28: only bit 0 of the value counts. -/
theorem test_applyWriteType5RomBankHi :
    controller (exec (.applyWriteType5RomBankHi 0x3FFF#16 0xFE#8) (ofType5 0x1FF 0 false)) =
      some (.type5 ⟨0xFF, 0, false⟩) := by decide

/-- A29. -/
theorem test_applyWriteType5RamBank :
    controller (exec (.applyWriteType5RamBank 0x4000#16 0xF7#8) (ofType5 0 0 false)) =
      some (.type5 ⟨0, 7, false⟩) := by decide

/-- A30. -/
theorem test_applyWriteType5Nop :
    controller (exec (.applyWriteType5Nop 0x6000#16 0xFF#8) (ofType5 0 7 false)) =
      some (.type5 ⟨0, 7, false⟩) := by decide

/-! ### INTERNAL rows -/

/-- K18. -/
theorem test_resolveNone :
    response (exec (.resolveNone 0x4000#16) (byRomBank (holding [(0xC000, 0x33#8)] 2#8 State.reset))) =
      some (.byte 0x33#8) := by decide

/-- K4. -/
theorem test_resolveType1_rom :
    response (exec (.resolveType1 0x4000#16) (holding [(0x8000, 0x22#8)] 0x21#8 (ofType1 0 0 false true))) =
      some (.byte 0x22#8) := by decide

/-- K9. -/
theorem test_resolveType1_ram :
    stopped (exec (.resolveType1 0x4000#16) (holding [] 0x00#8 (ofType1 0 1 false false))) =
      some (.bankedReadOutOfRange 0x4000#16 32) := by decide

/-- K11. -/
theorem test_resolveType2 :
    response (exec (.resolveType2 0x4000#16) (holding [(0xC000, 0x33#8)] 0x12#8 (ofType2 0 false))) =
      some (.byte 0x33#8) := by decide

/-- K14: no mask. -/
theorem test_resolveType3 :
    stopped (exec (.resolveType3 0x4000#16) (holding [] 0x80#8 (ofType3 0 0 false))) =
      some (.bankedReadOutOfRange 0x4000#16 128) := by decide

/-- K16. -/
theorem test_resolveType5 :
    response (exec (.resolveType5 0x4000#16) (holding [(0x8000, 0x22#8), (0xC000, 0x33#8)] 2#8 (ofType5 1 0 false))) =
      some (.byte 0x33#8) := by decide

/-- K17. -/
theorem test_resolveType5_romBank :
    response (exec (.resolveType5 0x4000#16)
      (byRomBank (holding [(0x8000, 0x22#8), (0xC000, 0x33#8)] 2#8 (ofType5 1 0 false)))) = some (.byte 0x22#8) := by decide

/-! ### STRAP rows -/

/-- Z1, Z3: a fresh instance, from a state that is not. -/
theorem test_variantNone :
    after State.ie (exec .variantNone (withIo [] 0x1F#8 (ofType2 7 true))) = some 0x00#8 ∧
    controller (exec .variantNone (ofType2 7 true)) = some .none := by decide

/-- R40. -/
theorem test_variantType1 : controller (exec .variantType1 State.reset) = some (.type1 ⟨0, 0, false, false⟩) := by decide

/-- R40. -/
theorem test_variantType2 : controller (step (State.reset.withFetchWord 8 2)) = some (.type2 ⟨0, false⟩) := by decide

/-- R40. -/
theorem test_variantType3 : controller (step (State.reset.withFetchWord 8 3)) = some (.type3 ⟨0, 0, false⟩) := by decide

/-- Z7: the gate is open on a fresh instance. -/
theorem test_variantType5 : after State.tip (exec .variantType5 (State.reset.forceTip true)) = some false ∧
    controller (step (State.reset.withFetchWord 8 5)) = some (.type5 ⟨0, 0, false⟩) := by decide

/-! ### Witnesses: states and operands that meet the hypotheses of each statement -/

theorem exists_next {o : Host.Outcome State Fault Refusal} (h : (after State.tip o).isSome = true) : ∃ t, o = .next t := by
  cases o with
  | next t => exact ⟨t, rfl⟩
  | fault _ => cases h
  | refused _ => cases h

/-- A None instance with the gate open, some cells, and a given bank. -/
def noneAt (ab : Byte) : State := holding [(0x3FFF, 0x11#8), (0xC000, 0x33#8)] ab State.reset

theorem witness_StepKeepsTheRunInvariant :
    ((noneAt 1#8).withFetchWord 40 0x1C0000012).Inv ∧
    ∃ t, step ((noneAt 1#8).withFetchWord 40 0x1C0000012) = .next t := ⟨by decide, ⟨_, rfl⟩⟩

theorem witness_StepRunsTheDecodedRequest :
    (State.reset.withFetchWord 40 0x0C0000000).pending = [.command 0x0C0000000#36] ∧
    decode (.command 0x0C0000000#36) = .ok (.readByte 0xC000#16) ∧
    decodeTableWord 8 5 = some .variantType5 ∧ decodeTableWord 40 0xFFFFFFFFF = some (.reserved 0xF#4 0xFFFF#16 0xFFFF#16) ∧
    State.reset.pending = [] := ⟨rfl, rfl, rfl, rfl, rfl⟩

theorem witness_EncodeThenDecodeGivesTheCommand :
    (Instr.applyWriteType5RomBankHi 0x3FFF#16 0xFF#8).wellFormed = true ∧
    (Instr.reserved 0x8#4 0x0000#16 0x0000#16).wellFormed = true ∧
    decode (.command 0x3FFFFFFFF#36) = .ok (.writeWord 0xFFFF#16 0xFFFF#16) ∧ decode (.strap 5#3) = .ok .variantType5 :=
  ⟨rfl, rfl, rfl, rfl⟩

theorem witness_DecodeThenEncodeIsCanonical :
    decode (.command 0x0C000BEEF#36) = .ok (.readByte 0xC000#16) ∧ decode (.strap 3#3) = .ok .variantType3 := ⟨rfl, rfl⟩

theorem witness_IgnoredBitsDoNotDecode :
    decode (.command 0x60000000C#36) = .ok (.triggerInterrupt .joypad) ∧
    0x60000000C#36 &&& usedBits (.triggerInterrupt .joypad) = 0x6FFFFFFF4#36 &&& usedBits (.triggerInterrupt .joypad) :=
  ⟨rfl, rfl⟩

/-- Both sides of each bound: operation codes 7 and 8, kind codes 4 and 5. -/
theorem witness_ExactlyTheInvalidWordsAreRefused :
    (State.reset.withFetchWord 40 0x800000000).pending = [.command 0x800000000#36] ∧
    8 ≤ (0x800000000#36).toNat / 2 ^ 32 ∧ ¬ 8 ≤ (0x7FFFFFFFF#36).toNat / 2 ^ 32 ∧
    (0x500000005#36).toNat / 2 ^ 32 = 5 ∧ 5 ≤ (0x500000005#36).toNat % 8 ∧
    (0x600000004#36).toNat / 2 ^ 32 = 6 ∧ ¬ 5 ≤ (0x600000004#36).toNat % 8 := by decide

theorem witness_MalformedVariantTagsConstructNothing :
    (State.reset.withFetchWord 8 4).pending = [.strap 4#3] ∧ (State.reset.withFetchWord 8 7).pending = [.strap 7#3] ∧
    (State.reset.withFetchWord 8 0).pending = [.strap 0#3] ∧ (State.reset.withFetchWord 8 1).pending = [.strap 1#3] ∧
    (State.reset.withFetchWord 8 2).pending = [.strap 2#3] ∧ (State.reset.withFetchWord 8 3).pending = [.strap 3#3] ∧
    (State.reset.withFetchWord 8 5).pending = [.strap 5#3] := by decide

theorem witness_GatedReadsReturnFF :
    ((noneAt 3#8).forceTip true).tip = true ∧ Instr.resolveType5 0x4000#16 ∈ readRows 0x4000#16 := by decide

theorem witness_LowAndHighReadsAreDirect :
    State.reset.tip = false ∧ (0x0000#16).toNat < 0x4000 ∧ (0x3FFF#16).toNat < 0x4000 ∧
    0x8000 ≤ (0x8000#16).toNat ∧ (0x8000#16).toNat < 0xFF00 ∧ 0x8000 ≤ (0xFEFF#16).toNat ∧ (0xFEFF#16).toNat < 0xFF00 := by
  decide

theorem witness_IoAndIeReadsReturnTheRegister :
    State.reset.tip = false ∧ 0xFF00 ≤ (0xFF00#16).toNat ∧ (0xFF00#16).toNat < 0xFFFF ∧
    0xFF00 ≤ (0xFFFE#16).toNat ∧ (0xFFFE#16).toNat < 0xFFFF := by decide

theorem witness_BankedReadsReturnTheBankedCell :
    (noneAt 2#8).tip = false ∧ effectiveIndex (noneAt 2#8) ≤ 2 ∧ 0x4000 ≤ (0x4000#16).toNat ∧ (0x4000#16).toNat < 0x8000 ∧
    0x4000 ≤ (0x7FFF#16).toNat ∧ (0x7FFF#16).toNat < 0x8000 := by decide

theorem witness_BankedReadsBeyondStorage :
    (noneAt 3#8).tip = false ∧ 3 ≤ effectiveIndex (noneAt 3#8) ∧ (noneAt 3#8).params.oorPolicy = .fault ∧
    (wrapping (noneAt 3#8)).tip = false ∧ 3 ≤ effectiveIndex (wrapping (noneAt 3#8)) ∧
    (wrapping (noneAt 3#8)).params.oorPolicy = .wrap16 ∧ 0x4000 ≤ (0x7FFF#16).toNat ∧ (0x7FFF#16).toNat < 0x8000 := by
  decide

theorem witness_ResolveRowsReadAtTheirIndex :
    (noneAt 2#8).bc = .none ∧ 2 = requestedBank (noneAt 2#8) ∧
    (holding [] 0x22#8 (ofType1 0 3 false true)).bc = .type1 ⟨0, 3, false, true⟩ ∧
    2 = requestedBank (holding [] 0x22#8 (ofType1 0 3 false true)) % 32 ∧
    2 = requestedBank (holding [] 0x06#8 (ofType1 0 0 false false)) % 4 + 32 * (0#2).toNat ∧
    2 = requestedBank (holding [] 0x12#8 (ofType2 0 false)) % 16 ∧
    2 = requestedBank (holding [] 2#8 (ofType3 0 0 false)) ∧ 2 = requestedBank (holding [] 2#8 (ofType5 0 0 false)) ∧
    (0x7FFF#16).toNat + 2 * 0x4000 < 0x10000 := by decide

theorem witness_RequestedBankFollowsTheAuthority :
    (ofType5 1 0 false).params.bankAuthority = .activeBank ∧
    (byRomBank State.reset).params.bankAuthority = .controllerRomBank ∧ (byRomBank State.reset).bc = .none ∧
    (byRomBank (ofType1 1 0 false true)).bc = .type1 ⟨1, 0, false, true⟩ ∧
    (byRomBank (ofType2 1 false)).bc = .type2 ⟨1, false⟩ ∧ (byRomBank (ofType3 1 0 false)).bc = .type3 ⟨1, 0, false⟩ ∧
    (byRomBank (ofType5 1 0 false)).bc = .type5 ⟨1, 0, false⟩ := by decide

theorem witness_ReadsChangeNoState :
    (∃ t, exec (.readWord 0xFEFF#16) State.reset = .next t) ∧
    (∃ t, exec (.checkInterrupt .joypad) State.reset = .next t) ∧
    ∃ t, exec (.resolveNone 0x4000#16) (noneAt 2#8) = .next t :=
  ⟨exists_next (by decide), exists_next (by decide), exists_next (by decide)⟩

theorem witness_GatedWritesAreDropped :
    (State.reset.forceTip true).tip = true ∧
    Instr.applyWriteType5Nop 0x6000#16 1#8 ∈ writeRows 0x6000#16 1#8 := by decide

theorem witness_HighWritesStoreOneCell :
    State.reset.tip = false ∧ 0x8000 ≤ (0x8000#16).toNat ∧ (0xFEFF#16).toNat < 0xFF00 := by decide

theorem witness_IoWritesStoreOneRegister :
    State.reset.tip = false ∧ 0xFF00 ≤ (0xFF00#16).toNat ∧ (0xFFFE#16).toNat < 0xFFFF ∧ (0xFEFF#16).toNat < 0xFF00 ∧
    ∃ t, exec (.writeByte 0xFEFF#16 0x67#8) State.reset = .next t := ⟨rfl, by decide, by decide, by decide, ⟨_, rfl⟩⟩

theorem witness_IeWritesSetTheLatchOnly : (withIo [(0x0F, 0x01#8)] 0x1F#8 State.reset).tip = false := by decide

theorem witness_NoneVariantStoresControlWrites :
    (noneAt 1#8).tip = false ∧ (noneAt 1#8).bc = .none ∧ (0x7FFF#16).toNat < 0x8000 := by decide

theorem witness_Type1ControlWrites :
    (ofType1 5 0 false true).tip = false ∧ (ofType1 5 0 false true).bc = .type1 ⟨5, 0, false, true⟩ ∧
    (0x1FFF#16).toNat < 0x2000 ∧ 0x2000 ≤ (0x2000#16).toNat ∧ (0x3FFF#16).toNat < 0x4000 ∧
    0x4000 ≤ (0x4000#16).toNat ∧ (0x5FFF#16).toNat < 0x6000 ∧ 0x6000 ≤ (0x6000#16).toNat ∧ (0x7FFF#16).toNat < 0x8000 := by
  decide

theorem witness_Type2ControlWrites :
    (ofType2 7 false).tip = false ∧ (ofType2 7 false).bc = .type2 ⟨7, false⟩ ∧ (0x1FFF#16).toNat < 0x2000 ∧
    0x2000 ≤ (0x2000#16).toNat ∧ (0x3FFF#16).toNat < 0x4000 ∧ 0x4000 ≤ (0x4000#16).toNat ∧ (0x7FFF#16).toNat < 0x8000 := by
  decide

theorem witness_Type3ControlWrites :
    (ofType3 5 2 false).tip = false ∧ (ofType3 5 2 false).bc = .type3 ⟨5, 2, false⟩ ∧
    (0x1FFF#16).toNat < 0x2000 ∧ 0x2000 ≤ (0x2000#16).toNat ∧ (0x3FFF#16).toNat < 0x4000 ∧
    0x4000 ≤ (0x4000#16).toNat ∧ (0x5FFF#16).toNat < 0x6000 ∧ 0x6000 ≤ (0x6000#16).toNat ∧ (0x7FFF#16).toNat < 0x8000 := by
  decide

theorem witness_Type5ControlWrites :
    (ofType5 0x1FF 7 false).tip = false ∧ (ofType5 0x1FF 7 false).bc = .type5 ⟨0x1FF, 7, false⟩ ∧
    (0x1FFF#16).toNat < 0x2000 ∧ 0x2000 ≤ (0x2000#16).toNat ∧ (0x2FFF#16).toNat < 0x3000 ∧
    0x3000 ≤ (0x3000#16).toNat ∧ (0x3FFF#16).toNat < 0x4000 ∧ 0x4000 ≤ (0x4000#16).toNat ∧
    (0x5FFF#16).toNat < 0x6000 ∧ 0x6000 ≤ (0x6000#16).toNat ∧ (0x7FFF#16).toNat < 0x8000 := by decide

theorem witness_EnableNibbleDecidesRamEnable :
    (ofType2 0 true).tip = false ∧ (ofType2 0 true).bc ≠ .none ∧ (0x1FFF#16).toNat < 0x2000 := by decide

theorem witness_BankedVariantsNeverStoreLow :
    (ofType3 0 0 false).bc ≠ .none ∧ (Instr.writeWord 0x7FFF#16 0xCD01#16).isStrap = false ∧
    ∃ t, exec (.writeWord 0x7FFF#16 0xCD01#16) (ofType3 0 0 false) = .next t := ⟨by decide, rfl, ⟨_, rfl⟩⟩

/-- Each of the four clauses: gated; readable across LOW and BANKED; low byte out of range; high byte out of range. -/
theorem witness_ReadWordComposesTwoByteReads :
    (0xFFFE#16 : Addr) ≠ 0xFFFF#16 ∧ (State.reset.forceTip true).tip = true ∧
    Readable (noneAt 2#8) 0x3FFF ∧ Readable (noneAt 2#8) 0x4000 ∧ ¬ Readable (noneAt 3#8) 0x7FFF ∧
    Readable (noneAt 3#8) 0x3FFF ∧ ¬ Readable (noneAt 3#8) 0x4000 := by decide

theorem witness_WriteWordIsLowThenHigh : (0xFFFE#16 : Addr) ≠ 0xFFFF#16 ∧ (0x0000#16 : Addr) ≠ 0xFFFF#16 := by decide

/-- Below, at and beyond the bounds of the clauses on `IE` and the controller, and the wrapped write. -/
theorem witness_WriteWordFrame :
    (∃ t, exec (.writeWord 0xFFFD#16 0x1234#16) State.reset = .next t) ∧ (0xFFFD#16).toNat < 0xFFFE ∧
    (∃ t, exec (.writeWord 0x8000#16 0x1234#16) (ofType2 0 false) = .next t) ∧ 0x8000 ≤ (0x8000#16).toNat ∧
    (∃ t, exec (.writeWord 0xFFFF#16 0x1234#16) (wrapping State.reset) = .next t) :=
  ⟨⟨_, rfl⟩, by decide, ⟨_, rfl⟩, by decide, ⟨_, rfl⟩⟩

theorem witness_WordAccessAtFFFF :
    State.reset.params.wordWrap = .fault ∧ (wrapping State.reset).params.wordWrap = .wrap16 ∧
    (wrapping State.reset).tip = false ∧ ((wrapping State.reset).forceTip true).params.wordWrap = .wrap16 ∧
    ((wrapping State.reset).forceTip true).tip = true := by decide

theorem witness_BytesRoundTripFrom8000 :
    (ofType5 0 0 false).tip = false ∧ 0x8000 ≤ (0x8000#16).toNat ∧ 0x8000 ≤ (0xFFFF#16).toNat := by decide

theorem witness_LowRoundTripExactlyUnderNone :
    State.reset.tip = false ∧ State.reset.bc.variant = .none ∧ (ofType3 0 0 false).tip = false ∧
    (ofType3 0 0 false).bc.variant ≠ .none ∧ (0x3FFF#16).toNat < 0x4000 := by decide

theorem witness_WindowRoundTripNeedsBankZero :
    (noneAt 0#8).tip = false ∧ (noneAt 0#8).bc = .none ∧ effectiveIndex (noneAt 0#8) = 0 ∧
    effectiveIndex (noneAt 2#8) ≤ 2 ∧ effectiveIndex (noneAt 2#8) ≠ 0 ∧ 0x4000 ≤ (0x4000#16).toNat ∧
    (0x7FFF#16).toNat < 0x8000 := by decide

theorem witness_WordsRoundTripFrom8000 :
    (ofType1 0 0 false true).tip = false ∧ 0x8000 ≤ (0xFFFE#16).toNat ∧ (0xFFFE#16 : Addr) ≠ 0xFFFF#16 := by decide

theorem witness_Type1WordWriteUsesTheOldMode :
    (ofType1 5 0 false true).tip = false ∧ (ofType1 5 0 false true).bc = .type1 ⟨5, 0, false, true⟩ ∧
    (ofType1 5 0 false false).bc = .type1 ⟨5, 0, false, false⟩ := by decide

theorem witness_DisabledTriggersAreLost :
    (withIo [] 0xFE#8 State.reset).ie.getLsbD Kind.vBlank.code.toNat = false ∧
    (withIo [] 0xFE#8 State.reset).tip = false := by decide

theorem witness_EnabledTriggersSetTheFlag :
    (withIo [] 0x10#8 State.reset).ie.getLsbD Kind.joypad.code.toNat = true ∧
    (withIo [] 0x10#8 State.reset).params.ifMode = .collapsed ∧
    (perKind (withIo [] 0x10#8 State.reset)).ie.getLsbD Kind.joypad.code.toNat = true ∧
    (perKind (withIo [] 0x10#8 State.reset)).params.ifMode = .perKind := by decide

theorem witness_TriggersCommute : (perKind (withIo [(0x0F, 0x01#8)] 0x14#8 State.reset)).Inv := by decide

theorem witness_SelfBlockingTransfersCopyNothing :
    (noneAt 3#8).tip = false ∧ (noneAt 3#8).params.dmaMode = .selfBlocking := by decide

theorem witness_ReentrantTransfersAreDropped : ((bypassing State.reset).forceTip true).tip = true := by decide

/-- A page of each kind: below the window, in it at index 2, above it, and the I/O page. -/
theorem witness_BypassTransfersCopyThePage :
    (bypassing (noneAt 2#8)).tip = false ∧ (bypassing (noneAt 2#8)).params.dmaMode = .bypass ∧
    Readable (bypassing (noneAt 2#8)) ((0x00#8).toNat * 256) ∧ Readable (bypassing (noneAt 2#8)) ((0x7E#8).toNat * 256) ∧
    Readable (bypassing (noneAt 2#8)) ((0x80#8).toNat * 256) ∧ Readable (bypassing (noneAt 2#8)) ((0xFF#8).toNat * 256) := by
  decide

theorem witness_BypassTransfersFaultOutOfRange :
    (bypassing (noneAt 3#8)).tip = false ∧ (bypassing (noneAt 3#8)).params.dmaMode = .bypass ∧
    ¬ Readable (bypassing (noneAt 3#8)) ((0x40#8).toNat * 256) ∧
    ¬ Readable (bypassing (noneAt 3#8)) ((0x7F#8).toNat * 256) := by decide

theorem witness_ParametersVariantAndGateStay :
    (∃ t, exec (.writeByte 0x6000#16 0x01#8) (ofType1 0 0 false true) = .next t) ∧
    (Instr.writeByte 0x6000#16 0x01#8).isStrap = false ∧ ∃ t, exec .variantType5 (ofType1 0 0 false true) = .next t :=
  ⟨⟨_, rfl⟩, rfl, ⟨_, rfl⟩⟩

/-- Each clause: a step that does change the register. -/
theorem witness_EachRegisterHasItsWriters :
    after State.ab (exec (.setBank 1#8) State.reset) ≠ some State.reset.ab ∧
    after State.ie (exec (.writeWord 0xFFFE#16 0x1F80#16) State.reset) ≠ some State.reset.ie ∧
    after State.io (exec (.triggerInterrupt .timer) (withIo [] 0x04#8 State.reset)) ≠ some [] ∧
    after State.bc (exec (.writeByte 0x7FFF#16 0x00#8) (ofType1 0 0 false false)) ≠ some (ofType1 0 0 false false).bc ∧
    after State.storage (exec (.writeByte 0xFEFF#16 0x67#8) State.reset) ≠ some [] ∧
    (Instr.setBank 1#8).isStrap = false := by decide

theorem witness_HiddenCellsAreNeverWritten :
    (Instr.writeWord 0xFEFF#16 0xAABB#16).isStrap = false ∧
    ∃ t, exec (.writeWord 0xFEFF#16 0xAABB#16) State.reset = .next t := ⟨rfl, ⟨_, rfl⟩⟩

/-- Index 1 and index 2, at the last address that HIGH shares. -/
theorem witness_WindowAliasesHigh :
    (noneAt 1#8).tip = false ∧ effectiveIndex (noneAt 1#8) = 1 ∧ effectiveIndex (noneAt 2#8) = 2 ∧
    (0xBFFF#16).toNat = (0x7FFF#16).toNat + 1 * 0x4000 ∧ (0xFEFF#16).toNat = (0x7EFF#16).toNat + 2 * 0x4000 ∧
    (0xFEFF#16).toNat < 0xFF00 := by decide

theorem witness_IoWindowIsIsolated :
    (noneAt 2#8).tip = false ∧ 0xFF00 ≤ (0xFF00#16).toNat ∧ (0xFFFE#16).toNat < 0xFFFF ∧ (0xFEFF#16).toNat < 0xFF00 ∧
    (∃ x, exec (.readByte 0x4000#16) (noneAt 2#8) = .next { noneAt 2#8 with rsp := .byte x }) ∧
    ∃ f, exec (.readByte 0x4000#16) (noneAt 3#8) = .fault f :=
  ⟨rfl, by decide, by decide, by decide, ⟨_, rfl⟩, ⟨_, rfl⟩⟩

/-- Controllers that differ where reads cannot tell, and operations that go on, fault and are refused. -/
theorem witness_ControlRegistersGateNothing :
    (ofType1 5 2 true true).params.bankAuthority = .activeBank ∧
    sameReads (ofType1 5 2 true true).bc (.type1 ⟨0x7F, 2, false, true⟩) = true ∧
    (∃ t, exec (.writeByte 0x5FFF#16 3#8) (ofType1 5 2 true true) = .next t) ∧
    (∃ f, exec (.readByte 0x4000#16) (holding [] 3#8 (ofType1 5 2 true true)) = .fault f) ∧
    ∃ r, exec (.reserved 8#4 0#16 0#16) (ofType1 5 2 true true) = .refused r :=
  ⟨rfl, by decide, ⟨_, rfl⟩, ⟨_, rfl⟩, ⟨_, rfl⟩⟩

end Sys2Proof.Tests
end

/-! ### Steps: one equation per case of `step`, and the scope statement O4 -/

namespace Sys2Proof.Machine

open Sys2Proof

/-- R8: the block acts only when an operation is issued. -/
theorem step_of_pending_nil {s : State} (hp : s.pending = []) : step s = .next s := by
  simp only [step, hp]

theorem step_of_decode_ok {s : State} {r : Request} {rest : List Request} {i : Instr}
    (hp : s.pending = r :: rest) (hd : decode r = .ok i) : step s = exec i { s with pending := rest } := by
  simp only [step, hp, hd]

/-- R92, R214, R231: the refusal leaves no next state. -/
theorem step_of_decode_error {s : State} {r : Request} {rest : List Request} {e : DecodeError}
    (hp : s.pending = r :: rest) (hd : decode r = .error e) : step s = refuseDecode e := by
  simp only [step, hp, hd]

theorem decodeTableWord_eq_some_iff {nbits w : Nat} {i : Instr} :
    decodeTableWord nbits w = some i ↔ decode (presented nbits w) = .ok i := by
  unfold decodeTableWord
  cases decode (presented nbits w) <;> simp

@[simp] theorem withFetchWord_pending (s : State) (nbits w : Nat) :
    (s.withFetchWord nbits w).pending = presented nbits w :: s.pending := rfl

/-- Taking the presented request off again gives the state it was presented in. -/
theorem step_withFetchWord {s : State} {nbits w : Nat} {i : Instr} (h : decodeTableWord nbits w = some i) :
    step (s.withFetchWord nbits w) = exec i s :=
  step_of_decode_ok (withFetchWord_pending s nbits w) (decodeTableWord_eq_some_iff.mp h)

/-- Settles O4: the equations of `step` for a request that decodes, for a table word just presented and for an empty
queue. -/
theorem stepRunsTheDecodedRequest : Obligations.StepRunsTheDecodedRequest := by
  unfold Obligations.StepRunsTheDecodedRequest
  refine ⟨?_, ?_, ?_⟩
  · intro s r rest i hp hd
    exact step_of_decode_ok hp hd
  · intro s nbits w i h
    exact step_withFetchWord h
  · intro s hp
    exact step_of_pending_nil hp

end Sys2Proof.Machine

/-! ### Every row acts as its command -/

namespace Sys2Proof.Machine

open Sys2Proof

/-- What a control write leaves in the controller record: the variant's own cell. `applyWrite_of_banked` ties it to the
model's `applyWrite`. -/
def Controller.written (bc : Controller) (c : ControlRange) (val : Byte) : Controller :=
  match bc with
  | .none    => .none
  | .type1 r => .type1 (r.applyWrite c val)
  | .type2 r => .type2 (r.applyWrite c val)
  | .type3 r => .type3 (r.applyWrite c val)
  | .type5 r => .type5 (r.applyWrite c val)

/-- R195: a banked variant's control write is its own cell and nothing else. -/
theorem applyWrite_of_banked {s : State} (a : Addr) (v : Byte) (hbc : s.bc ≠ .none) :
    applyWrite a v s = { s with bc := s.bc.written (controlRange a) v } := by
  unfold applyWrite
  split <;> simp_all [Controller.written]

/-! The sub-ranges of R88, one address range each. -/

theorem controlRange_r0000 {a : Addr} (h : a.toNat < 0x2000) : controlRange a = .r0000 := by
  rw [controlRange_eq (by omega), if_pos h]

theorem controlRange_r2000 {a : Addr} (h : 0x2000 ≤ a.toNat) (h' : a.toNat < 0x3000) : controlRange a = .r2000 := by
  rw [controlRange_eq (by omega), if_neg (by omega), if_pos h']

theorem controlRange_r3000 {a : Addr} (h : 0x3000 ≤ a.toNat) (h' : a.toNat < 0x4000) : controlRange a = .r3000 := by
  rw [controlRange_eq (by omega), if_neg (by omega), if_neg (by omega), if_pos h']

theorem controlRange_r4000 {a : Addr} (h : 0x4000 ≤ a.toNat) (h' : a.toNat < 0x6000) : controlRange a = .r4000 := by
  rw [controlRange_eq (by omega), if_neg (by omega), if_neg (by omega), if_neg (by omega), if_pos h']

theorem controlRange_r6000 {a : Addr} (h : 0x6000 ≤ a.toNat) (h' : a.toNat < 0x8000) : controlRange a = .r6000 := by
  rw [controlRange_eq h', if_neg (by omega), if_neg (by omega), if_neg (by omega), if_neg (by omega)]

theorem controlRange_r2000_or_r3000 {a : Addr} (h : 0x2000 ≤ a.toNat) (h' : a.toNat < 0x4000) :
    controlRange a = .r2000 ∨ controlRange a = .r3000 := by
  rcases Nat.lt_or_ge a.toNat 0x3000 with hlt | hge
  · exact .inl (controlRange_r2000 h hlt)
  · exact .inr (controlRange_r3000 hge h')

theorem controlRange_r4000_or_r6000 {a : Addr} (h : 0x4000 ≤ a.toNat) (h' : a.toNat < 0x8000) :
    controlRange a = .r4000 ∨ controlRange a = .r6000 := by
  rcases Nat.lt_or_ge a.toNat 0x6000 with hlt | hge
  · exact .inl (controlRange_r4000 h hlt)
  · exact .inr (controlRange_r6000 hge h')

/-- A control row of the controller's own variant, whose record is the variant's cell at the row's addresses, is the command
`write_byte`. -/
theorem controlRow_eq {lo hi : Nat} {own : Controller} {a : Addr} {v : Byte} {s : State} (hbc : s.bc ≠ .none)
    (hhi : hi ≤ 0x8000) (hown : lo ≤ a.toNat → a.toNat < hi → own = s.bc.written (controlRange a) v) :
    controlRow lo hi own a v s = exec (.writeByte a v) s := by
  refine writeRow_eq fun hsel => ?_
  obtain ⟨hge, hlt⟩ := inRange_iff.mp hsel
  rw [ungatedWrite_control v s (by omega), applyWrite_of_banked a v hbc, hown hge hlt]

theorem exec_applyWriteNone (a : Addr) (v : Byte) (s : State) :
    exec (.applyWriteNone a v) s = exec (.writeByte a v) s := by
  cases hbc : s.bc with
  | none =>
    simp only [exec, execApplyWriteNone, hbc]
    refine writeRow_eq fun hsel => ?_
    rw [ungatedWrite_control v s (inRange_iff.mp hsel).2, applyWrite_none a v hbc]
  | type1 _ | type2 _ | type3 _ | type5 _ => simp only [exec, execApplyWriteNone, hbc]; rfl

/-- R179 to R182. -/
theorem exec_type1Rows (a : Addr) (v : Byte) (s : State) :
    ∀ i ∈ [Instr.applyWriteType1RamEnable a v, .applyWriteType1RomBankLo a v, .applyWriteType1BankHi a v,
      .applyWriteType1Mode a v], exec i s = exec (.writeByte a v) s := by
  simp only [List.forall_mem_cons, List.not_mem_nil, false_imp_iff, implies_true, and_true]
  cases hbc : s.bc with
  | type1 r =>
    have hne : s.bc ≠ .none := by simp [hbc]
    simp only [exec, execApplyWriteType1RamEnable, execApplyWriteType1RomBankLo, execApplyWriteType1BankHi,
      execApplyWriteType1Mode, hbc]
    refine ⟨controlRow_eq hne (by decide) fun _ hlt => ?_, controlRow_eq hne (by decide) fun hge hlt => ?_,
      controlRow_eq hne (by decide) fun hge hlt => ?_, controlRow_eq hne (by decide) fun hge hlt => ?_⟩
    · rw [hbc, controlRange_r0000 hlt]; rfl
    · rcases controlRange_r2000_or_r3000 hge hlt with hc | hc <;> rw [hbc, hc] <;> rfl
    · rw [hbc, controlRange_r4000 hge hlt]; rfl
    · rw [hbc, controlRange_r6000 hge hlt]; rfl
  | none | type2 _ | type3 _ | type5 _ =>
    simp only [exec, execApplyWriteType1RamEnable, execApplyWriteType1RomBankLo, execApplyWriteType1BankHi,
      execApplyWriteType1Mode, hbc]
    exact ⟨rfl, rfl, rfl, rfl⟩

/-- R183 to R185. -/
theorem exec_type2Rows (a : Addr) (v : Byte) (s : State) :
    ∀ i ∈ [Instr.applyWriteType2RamEnable a v, .applyWriteType2RomBank a v, .applyWriteType2Nop a v],
      exec i s = exec (.writeByte a v) s := by
  simp only [List.forall_mem_cons, List.not_mem_nil, false_imp_iff, implies_true, and_true]
  cases hbc : s.bc with
  | type2 r =>
    have hne : s.bc ≠ .none := by simp [hbc]
    simp only [exec, execApplyWriteType2RamEnable, execApplyWriteType2RomBank, execApplyWriteType2Nop, hbc]
    refine ⟨controlRow_eq hne (by decide) fun _ hlt => ?_, controlRow_eq hne (by decide) fun hge hlt => ?_,
      controlRow_eq hne (by decide) fun hge hlt => ?_⟩
    · rw [hbc, controlRange_r0000 hlt]; rfl
    · rcases controlRange_r2000_or_r3000 hge hlt with hc | hc <;> rw [hbc, hc] <;> rfl
    · rcases controlRange_r4000_or_r6000 hge hlt with hc | hc <;> rw [hbc, hc] <;> rfl
  | none | type1 _ | type3 _ | type5 _ =>
    simp only [exec, execApplyWriteType2RamEnable, execApplyWriteType2RomBank, execApplyWriteType2Nop, hbc]
    exact ⟨rfl, rfl, rfl⟩

/-- R186 to R189. -/
theorem exec_type3Rows (a : Addr) (v : Byte) (s : State) :
    ∀ i ∈ [Instr.applyWriteType3RamEnable a v, .applyWriteType3RomBank a v, .applyWriteType3RamBank a v,
      .applyWriteType3Nop a v], exec i s = exec (.writeByte a v) s := by
  simp only [List.forall_mem_cons, List.not_mem_nil, false_imp_iff, implies_true, and_true]
  cases hbc : s.bc with
  | type3 r =>
    have hne : s.bc ≠ .none := by simp [hbc]
    simp only [exec, execApplyWriteType3RamEnable, execApplyWriteType3RomBank, execApplyWriteType3RamBank,
      execApplyWriteType3Nop, hbc]
    refine ⟨controlRow_eq hne (by decide) fun _ hlt => ?_, controlRow_eq hne (by decide) fun hge hlt => ?_,
      controlRow_eq hne (by decide) fun hge hlt => ?_, controlRow_eq hne (by decide) fun hge hlt => ?_⟩
    · rw [hbc, controlRange_r0000 hlt]; rfl
    · rcases controlRange_r2000_or_r3000 hge hlt with hc | hc <;> rw [hbc, hc] <;> rfl
    · rw [hbc, controlRange_r4000 hge hlt]; rfl
    · rw [hbc, controlRange_r6000 hge hlt]; rfl
  | none | type1 _ | type2 _ | type5 _ =>
    simp only [exec, execApplyWriteType3RamEnable, execApplyWriteType3RomBank, execApplyWriteType3RamBank,
      execApplyWriteType3Nop, hbc]
    exact ⟨rfl, rfl, rfl, rfl⟩

/-- R190 to R194. -/
theorem exec_type5Rows (a : Addr) (v : Byte) (s : State) :
    ∀ i ∈ [Instr.applyWriteType5RamEnable a v, .applyWriteType5RomBankLo a v, .applyWriteType5RomBankHi a v,
      .applyWriteType5RamBank a v, .applyWriteType5Nop a v], exec i s = exec (.writeByte a v) s := by
  simp only [List.forall_mem_cons, List.not_mem_nil, false_imp_iff, implies_true, and_true]
  cases hbc : s.bc with
  | type5 r =>
    have hne : s.bc ≠ .none := by simp [hbc]
    simp only [exec, execApplyWriteType5RamEnable, execApplyWriteType5RomBankLo, execApplyWriteType5RomBankHi,
      execApplyWriteType5RamBank, execApplyWriteType5Nop, hbc]
    refine ⟨controlRow_eq hne (by decide) fun _ hlt => ?_, controlRow_eq hne (by decide) fun hge hlt => ?_,
      controlRow_eq hne (by decide) fun hge hlt => ?_, controlRow_eq hne (by decide) fun hge hlt => ?_,
      controlRow_eq hne (by decide) fun hge hlt => ?_⟩
    · rw [hbc, controlRange_r0000 hlt]; rfl
    · rw [hbc, controlRange_r2000 hge hlt]; rfl
    · rw [hbc, controlRange_r3000 hge hlt]; rfl
    · rw [hbc, controlRange_r4000 hge hlt]; rfl
    · rw [hbc, controlRange_r6000 hge hlt]; rfl
  | none | type1 _ | type2 _ | type3 _ =>
    simp only [exec, execApplyWriteType5RamEnable, execApplyWriteType5RomBankLo, execApplyWriteType5RomBankHi,
      execApplyWriteType5RamBank, execApplyWriteType5Nop, hbc]
    exact ⟨rfl, rfl, rfl, rfl, rfl⟩

/-- R120 to R122, R119: the `write_byte` rows of one region. -/
theorem exec_regionWriteRows (a : Addr) (v : Byte) (s : State) :
    ∀ i ∈ [Instr.writeByteIe a v, .writeByteIo a v, .writeByteHigh a v, .writeByteCtl a v],
      exec i s = exec (.writeByte a v) s := by
  simp only [List.forall_mem_cons, List.not_mem_nil, false_imp_iff, implies_true, and_true]
  refine ⟨writeRow_eq fun hsel => ?_, writeRow_eq fun hsel => ?_, writeRow_eq fun hsel => ?_,
    writeRow_eq fun hsel => ?_⟩
  · simp [ungatedWrite, beq_iff_eq.mp hsel]
  · simp [ungatedWrite, beq_iff_eq.mp hsel]
  · simp [ungatedWrite, beq_iff_eq.mp hsel]
  · rw [Bool.or_eq_true, beq_iff_eq, beq_iff_eq] at hsel
    rcases hsel with hr | hr <;> simp [ungatedWrite, hr]

/-- R112 to R116: the `read_byte` rows of one region. -/
theorem exec_regionReadRows (a : Addr) (s : State) :
    ∀ i ∈ [Instr.readByteIe a, .readByteIo a, .readByteHigh a, .readByteBanked a, .readByteLow a],
      exec i s = exec (.readByte a) s := by
  simp only [List.forall_mem_cons, List.not_mem_nil, false_imp_iff, implies_true, and_true]
  refine ⟨readRow_eq fun hr => ?_, readRow_eq fun hr => ?_, readRow_eq fun hr => ?_, readRow_eq fun hr => ?_,
    readRow_eq fun hr => ?_⟩ <;> simp [ungatedRead, hr]

/-- A `resolve` row at the state's effective index is the command `read_byte` (R113). -/
theorem resolveRow_eq {e : Nat} {a : Addr} {s : State} (he : e = effectiveIndex s) :
    resolveRow e a s = exec (.readByte a) s :=
  readRow_eq fun hr => by simp [ungatedRead, hr, bankedRead, he]

/-- R171 to R175: each variant's row of `Resolve` is what a read in the window uses. -/
theorem exec_resolveRows (a : Addr) (s : State) :
    ∀ i ∈ [Instr.resolveNone a, .resolveType1 a, .resolveType2 a, .resolveType3 a, .resolveType5 a],
      exec i s = exec (.readByte a) s := by
  simp only [List.forall_mem_cons, List.not_mem_nil, false_imp_iff, implies_true, and_true]
  cases hbc : s.bc <;>
    simp only [exec, execResolveNone, execResolveType1, execResolveType2, execResolveType3, execResolveType5, hbc]
  case none => exact ⟨resolveRow_eq (by rw [effectiveIndex, hbc]; rfl), rfl, rfl, rfl, rfl⟩
  case type1 => exact ⟨rfl, resolveRow_eq (by rw [effectiveIndex, hbc]; rfl), rfl, rfl, rfl⟩
  case type2 => exact ⟨rfl, rfl, resolveRow_eq (by rw [effectiveIndex, hbc]; rfl), rfl, rfl⟩
  case type3 => exact ⟨rfl, rfl, rfl, resolveRow_eq (by rw [effectiveIndex, hbc]; rfl), rfl⟩
  case type5 => exact ⟨rfl, rfl, rfl, rfl, resolveRow_eq (by rw [effectiveIndex, hbc]; rfl)⟩

/-- R84, R87, R88, R93: a row that shares a command's words acts as that command. -/
theorem exec_eq_exec_command (i : Instr) (s : State) : exec i s = exec i.command s := by
  cases i with
  | readByteIe a | readByteIo a | readByteHigh a | readByteBanked a | readByteLow a =>
    exact exec_regionReadRows a s _ (by simp)
  | resolveNone a | resolveType1 a | resolveType2 a | resolveType3 a | resolveType5 a =>
    exact exec_resolveRows a s _ (by simp)
  | writeByteIe a v | writeByteIo a v | writeByteHigh a v | writeByteCtl a v =>
    exact exec_regionWriteRows a v s _ (by simp)
  | applyWriteNone a v => exact exec_applyWriteNone a v s
  | applyWriteType1RamEnable a v | applyWriteType1RomBankLo a v | applyWriteType1BankHi a v | applyWriteType1Mode a v =>
    exact exec_type1Rows a v s _ (by simp)
  | applyWriteType2RamEnable a v | applyWriteType2RomBank a v | applyWriteType2Nop a v =>
    exact exec_type2Rows a v s _ (by simp)
  | applyWriteType3RamEnable a v | applyWriteType3RomBank a v | applyWriteType3RamBank a v | applyWriteType3Nop a v =>
    exact exec_type3Rows a v s _ (by simp)
  | applyWriteType5RamEnable a v | applyWriteType5RomBankLo a v | applyWriteType5RomBankHi a v
  | applyWriteType5RamBank a v | applyWriteType5Nop a v =>
    exact exec_type5Rows a v s _ (by simp)
  | readByte _ | writeByte _ _ | readWord _ | writeWord _ _ | setBank _ | checkInterrupt _ | triggerInterrupt _
  | dmaTransfer _ | reserved _ _ _ | variantNone | variantType1 | variantType2 | variantType3 | variantType5 => rfl

end Sys2Proof.Machine

/-! ### What an operation other than a construction can do -/

namespace Sys2Proof.Machine

open Sys2Proof

/-- Everything an operation that is no construction can do to the state when it goes on; `effect_of_exec_next` ties it to
`exec`. -/
inductive Effect (i : Instr) (s : State) : State → Prop where
  | answered (r : Response) : Effect i s { s with rsp := r }
  | wroteByte (a : Addr) (v : Byte) (hi : i.command = .writeByte a v) : Effect i s { writeByte a v s with rsp := .unit }
  | wroteWord (a : Addr) (w : Word) (hi : i = .writeWord a w) : Effect i s { writePair a w s with rsp := .unit }
  | selectedBank (b : Byte) (hi : i = .setBank b) : Effect i s { s with ab := b, rsp := .unit }
  | triggered (k : Kind) (hi : i = .triggerInterrupt k) : Effect i s { triggerInterrupt k s with rsp := .unit }
  | transferred (p : Byte) (u : State) (hi : i = .dmaTransfer p) (hu : dmaTransfer p s = .ok u) :
      Effect i s { u with rsp := .unit }

theorem effect_of_exec_next {i : Instr} {s t : State} (hi : i.isStrap = false) (h : exec i s = .next t) :
    Effect i s t := by
  rcases command_cases i hi with ⟨a, hc⟩ | ⟨a, v, hc⟩ | ⟨a, hc⟩ | ⟨a, w, rfl⟩ | ⟨b, rfl⟩ | ⟨k, rfl⟩ | ⟨k, rfl⟩ |
    ⟨p, rfl⟩ | ⟨o, a, d, rfl⟩
  · rw [exec_eq_exec_command, hc] at h
    rw [next_of_readByte h]
    exact .answered _
  · rw [exec_eq_exec_command, hc] at h
    rw [next_of_writeByte h]
    exact .wroteByte a v hc
  · rw [exec_eq_exec_command, hc] at h
    rw [next_of_readWord h]
    exact .answered _
  · rw [next_of_writeWord h]
    exact .wroteWord a w rfl
  · cases h
    exact .selectedBank b rfl
  · cases h
    exact .answered _
  · cases h
    exact .triggered k rfl
  · obtain ⟨u, hu, rfl⟩ := next_of_dmaTransfer h
    exact .transferred p u rfl hu
  · cases h

/-- A predicate on states that every effect preserves. -/
structure KeptByEffects (P : State → Prop) : Prop where
  answer : ∀ s r, P s → P { s with rsp := r }
  byteWrite : ∀ a v s, P s → P (writeByte a v s)
  bankSelect : ∀ b s, P s → P { s with ab := b }
  trigger : ∀ k s, P s → P (triggerInterrupt k s)
  transfer : ∀ p s u, dmaTransfer p s = .ok u → P s → P u

theorem KeptByEffects.of_effect {P : State → Prop} (hP : KeptByEffects P) {i : Instr} {s t : State} (e : Effect i s t)
    (hs : P s) : P t := by
  cases e with
  | answered r => exact hP.answer s r hs
  | wroteByte a v => exact hP.answer _ _ (hP.byteWrite a v s hs)
  | wroteWord a w => exact hP.answer _ _ (hP.byteWrite _ _ _ (hP.byteWrite a (loByte w) s hs))
  | selectedBank b => exact hP.answer _ _ (hP.bankSelect b s hs)
  | triggered k => exact hP.answer _ _ (hP.trigger k s hs)
  | transferred p u _ hu => exact hP.answer _ _ (hP.transfer p s u hu hs)

/-- A trigger stores in the `IF` cell or does nothing (R152). -/
theorem triggerInterrupt_cases (k : Kind) (s : State) :
    triggerInterrupt k s = s ∨ ∃ v, triggerInterrupt k s = storeIo ifIndex v s := by
  unfold triggerInterrupt
  split
  · exact .inr ⟨_, rfl⟩
  · exact .inl rfl

/-! ### The parameters, the requests, the variant and the gate (O53) -/

/-- The fields that nothing but a construction changes (R25, R26, R44). -/
def SameInstance (s t : State) : Prop :=
  t.params = s.params ∧ t.pending = s.pending ∧ t.bc.variant = s.bc.variant ∧ t.tip = s.tip

theorem sameInstance_keptByEffects (s : State) : KeptByEffects (SameInstance s) where
  answer _ _ h := h
  byteWrite a v u h := by simpa [SameInstance] using h
  bankSelect _ _ h := h
  trigger k u h := by
    rcases triggerInterrupt_cases k u with he | ⟨v, he⟩ <;> rw [he] <;> exact h
  transfer p u u' hu h := by
    rw [(dmaTransfer_frame hu).1]
    exact h

theorem Effect.sameInstance {i : Instr} {s t : State} (e : Effect i s t) : SameInstance s t :=
  (sameInstance_keptByEffects s).of_effect e ⟨rfl, rfl, rfl, rfl⟩

/-- Settles O53: a construction keeps the parameters and the requests by definition, and every other operation has an
effect that keeps all four fields. -/
theorem parametersVariantAndGateStay : Obligations.ParametersVariantAndGateStay := by
  unfold Obligations.ParametersVariantAndGateStay
  intro i s t h
  by_cases hi : i.isStrap = true
  · obtain ⟨v, hv⟩ := strap_cases i hi
    rw [hv] at h
    cases h
    exact ⟨rfl, rfl, fun hn => by simp [hi] at hn⟩
  · rw [Bool.not_eq_true] at hi
    obtain ⟨hparams, hpending, hvariant, htip⟩ := (effect_of_exec_next hi h).sameInstance
    exact ⟨hparams, hpending, fun _ => ⟨hvariant, htip⟩⟩

/-! ### The run invariant (O3) -/

theorem wf_iff {s : State} : s.wf = true ↔
    Memory.wf 0x10000 s.storage = true ∧ Memory.wf 0x100 s.io = true ∧ Memory.wf 0x10000 s.params.initStorage = true := by
  simp [State.wf, and_assoc]

theorem storeCell_wf {s : State} {a : Nat} (v : Byte) (ha : a < 0x10000) (hs : s.wf = true) :
    (storeCell a v s).wf = true := by
  obtain ⟨hstorage, hio, hinit⟩ := wf_iff.mp hs
  exact wf_iff.mpr ⟨Memory.write_wf v hstorage ha, hio, hinit⟩

theorem storeIo_wf {s : State} {i : Nat} (v : Byte) (hi : i < 0x100) (hs : s.wf = true) :
    (storeIo i v s).wf = true := by
  obtain ⟨hstorage, hio, hinit⟩ := wf_iff.mp hs
  exact wf_iff.mpr ⟨hstorage, Memory.write_wf v hio hi, hinit⟩

theorem copyWrite_wf {s : State} (a : Addr) (v : Byte) (hs : s.wf = true) : (copyWrite a v s).wf = true := by
  unfold copyWrite
  split
  · exact writeByte_wf a v hs
  · exact storeCell_wf v a.isLt hs

theorem copyStep_wf {s t : State} {p : Byte} {i : Nat} (h : copyStep p i s = .ok t) (hs : s.wf = true) :
    t.wf = true := by
  unfold copyStep at h
  split at h
  · cases h
  · cases h
    exact copyWrite_wf _ _ hs

theorem copyLoop_wf {s t : State} {p : Byte} {n i : Nat} (h : copyLoop p n i s = .ok t) (hs : s.wf = true) :
    t.wf = true := by
  induction n generalizing i s with
  | zero => cases h; exact hs
  | succ n ih =>
    unfold copyLoop at h
    split at h
    · cases h
    · exact ih h (copyStep_wf ‹_› hs)

theorem dmaTransfer_wf {s t : State} {p : Byte} (h : dmaTransfer p s = .ok t) (hs : s.wf = true) : t.wf = true := by
  unfold dmaTransfer at h
  split at h
  · cases h; exact hs
  · split at h
    · cases h
    · cases h
      rename_i u hu
      have hend : u.wf = true := copyLoop_wf hu hs
      exact hend

theorem wf_keptByEffects : KeptByEffects (fun s => s.wf = true) where
  answer _ _ h := h
  byteWrite a v _ h := writeByte_wf a v h
  bankSelect _ _ h := h
  trigger k s h := by
    rcases triggerInterrupt_cases k s with he | ⟨v, he⟩ <;> rw [he]
    · exact h
    · exact storeIo_wf v (by decide) h
  transfer _ _ _ hu h := dmaTransfer_wf hu h

/-- A construction opens the gate on the loader's image and empty registers (R40). -/
theorem constructInstance_inv {v : Variant} {s t : State} (hs : s.Inv) (h : constructInstance v s = .next t) : t.Inv := by
  cases h
  obtain ⟨hwf, -⟩ := hs
  obtain ⟨-, -, hinit⟩ := wf_iff.mp hwf
  exact ⟨wf_iff.mpr ⟨hinit, rfl, hinit⟩, rfl⟩

theorem exec_inv {i : Instr} {s t : State} (hs : s.Inv) (h : exec i s = .next t) : t.Inv := by
  by_cases hi : i.isStrap = true
  · obtain ⟨v, hv⟩ := strap_cases i hi
    exact constructInstance_inv hs ((hv s).symm.trans h)
  · rw [Bool.not_eq_true] at hi
    have e := effect_of_exec_next hi h
    obtain ⟨hwf, hopen⟩ := hs
    obtain ⟨-, -, -, htip⟩ := e.sameInstance
    exact ⟨wf_keptByEffects.of_effect e hwf, htip.trans hopen⟩

/-- Settles O3: an idle step changes nothing, a refused request has no next state, and the operation of a decoded request
keeps the invariant. -/
theorem stepKeepsTheRunInvariant : Obligations.StepKeepsTheRunInvariant := by
  unfold Obligations.StepKeepsTheRunInvariant
  intro s t hs h
  cases hp : s.pending with
  | nil =>
    rw [step_of_pending_nil hp] at h
    cases h
    exact hs
  | cons r rest =>
    cases hd : decode r with
    | error e =>
      rw [step_of_decode_error hp hd] at h
      cases e <;> cases h
    | ok i =>
      rw [step_of_decode_ok hp hd] at h
      have hs' : State.Inv { s with pending := rest } := hs
      exact exec_inv hs' h

end Sys2Proof.Machine

/-! ### Which operations write which register (O54) -/

namespace Sys2Proof.Machine

open Sys2Proof

theorem writeByte_storage_of_ge {s : State} {a : Addr} {v : Byte} (ha : 0xFF00 ≤ a.toNat) :
    (writeByte a v s).storage = s.storage := by
  rcases writeByte_cases a v s with ⟨-, e⟩ | ⟨-, -, hlt, -⟩ | ⟨-, -, -, e⟩ | ⟨-, -, e⟩ | ⟨-, hlt, -⟩ | ⟨-, hlt, -⟩
  · rw [e]
  · omega
  · rw [e]; rfl
  · rw [e]
  · omega
  · omega

theorem writeByte_io_of_not_window {s : State} {a : Addr} {v : Byte} (ha : ¬ (0xFF00 ≤ a.toNat ∧ a.toNat < 0xFFFF)) :
    (writeByte a v s).io = s.io := by
  rcases writeByte_cases a v s with ⟨-, e⟩ | ⟨-, -, -, e⟩ | ⟨-, hge, hlt, -⟩ | ⟨-, -, e⟩ | ⟨-, -, -, e⟩ |
    ⟨-, -, -, bc', -, e⟩
  · rw [e]
  · rw [e]; rfl
  · exact absurd ⟨hge, hlt⟩ ha
  · rw [e]
  · rw [e]; rfl
  · rw [e]

/-- A field of the state that no answer and no bank select touches and that a byte write changes only at an address in
`[lo, hi)`. -/
structure WrittenIn {α : Type} (field : State → α) (lo hi : Nat) : Prop where
  answer : ∀ s r, field { s with rsp := r } = field s
  bankSelect : ∀ b s, field { s with ab := b } = field s
  byteWrite : ∀ a v s, field (writeByte a v s) ≠ field s → a.inRange lo hi = true

theorem ie_writtenIn : WrittenIn State.ie 0xFFFF 0x10000 where
  answer _ _ := rfl
  bankSelect _ _ := rfl
  byteWrite a v s hne := by
    by_contra ha
    rw [inRange_iff] at ha
    have hlt := a.isLt
    exact hne (writeByte_ie_other fun he => ha (by rw [he]; decide))

theorem io_writtenIn : WrittenIn State.io 0xFF00 0xFFFF where
  answer _ _ := rfl
  bankSelect _ _ := rfl
  byteWrite a v s hne := by
    by_contra ha
    exact hne (writeByte_io_of_not_window fun hw => ha (inRange_iff.mpr hw))

theorem bc_writtenIn : WrittenIn State.bc 0x0000 0x8000 where
  answer _ _ := rfl
  bankSelect _ _ := rfl
  byteWrite a v s hne := by
    by_contra ha
    rw [inRange_iff] at ha
    exact hne (writeByte_bc_other (by omega))

theorem storage_writtenIn : WrittenIn State.storage 0x0000 0xFF00 where
  answer _ _ := rfl
  bankSelect _ _ := rfl
  byteWrite a v s hne := by
    by_contra ha
    rw [inRange_iff] at ha
    exact hne (writeByte_storage_of_ge (by omega))

/-- A word write that changes the field writes in the range at one of its two addresses. -/
theorem WrittenIn.wordWrite {α : Type} {field : State → α} {lo hi : Nat} (hf : WrittenIn field lo hi) {a : Addr}
    {w : Word} {s : State} (hne : field (writePair a w s) ≠ field s) :
    a.inRange lo hi = true ∨ (secondAddr a).inRange lo hi = true := by
  by_cases hlow : field (writeByte a (loByte w) s) = field s
  · refine .inr (hf.byteWrite (secondAddr a) (hiByte w) (writeByte a (loByte w) s) fun hhigh => hne ?_)
    exact hhigh.trans hlow
  · exact .inl (hf.byteWrite a (loByte w) s hlow)

theorem writesIn_of_command {i : Instr} {a : Addr} {v : Byte} (hc : i.command = .writeByte a v) (lo hi : Nat) :
    i.writesIn lo hi = a.inRange lo hi := by
  simp [Instr.writesIn, hc]

theorem writesIn_writeWord (a : Addr) (w : Word) (lo hi : Nat) :
    (Instr.writeWord a w).writesIn lo hi = (a.inRange lo hi || (secondAddr a).inRange lo hi) := rfl

/-- An effect that changed the field is a write in the field's range, or a trigger or a transfer. -/
theorem Effect.writer_of_changed {α : Type} {field : State → α} {lo hi : Nat} (hf : WrittenIn field lo hi) {i : Instr}
    {s t : State} (e : Effect i s t) (hne : field t ≠ field s) :
    i.writesIn lo hi = true ∨
    (∃ k, i = .triggerInterrupt k ∧ t = { triggerInterrupt k s with rsp := .unit } ∧
      field (triggerInterrupt k s) ≠ field s) ∨
    ∃ p u, i = .dmaTransfer p ∧ dmaTransfer p s = .ok u ∧ field u ≠ field s := by
  cases e with
  | answered r => exact absurd (hf.answer s r) hne
  | wroteByte a v hc =>
    rw [hf.answer] at hne
    exact .inl ((writesIn_of_command hc lo hi).trans (hf.byteWrite a v s hne))
  | wroteWord a w hi' =>
    rw [hf.answer] at hne
    subst hi'
    rw [writesIn_writeWord, Bool.or_eq_true]
    exact .inl (hf.wordWrite hne)
  | selectedBank b => exact absurd ((hf.answer { s with ab := b } .unit).trans (hf.bankSelect b s)) hne
  | triggered k hi' =>
    rw [hf.answer] at hne
    exact .inr (.inl ⟨k, hi', rfl, hne⟩)
  | transferred p u hi' hu =>
    rw [hf.answer] at hne
    exact .inr (.inr ⟨p, u, hi', hu, hne⟩)

/-- A trigger changes the I/O registers only. -/
theorem triggerInterrupt_frame (k : Kind) (s : State) :
    triggerInterrupt k s = { s with io := (triggerInterrupt k s).io } := by
  rcases triggerInterrupt_cases k s with he | ⟨v, he⟩ <;> rw [he]
  rfl

theorem triggerInterrupt_io_other {k : Kind} {s : State} {j : Nat} (hj : j ≠ ifIndex) :
    (triggerInterrupt k s).io.read j = s.io.read j := by
  rcases triggerInterrupt_cases k s with he | ⟨v, he⟩ <;> rw [he]
  exact Memory.read_write_other _ _ hj

theorem dmaTransfer_bypass_of_changed {p : Byte} {s u : State} (hu : dmaTransfer p s = .ok u) (hne : u ≠ s) :
    s.params.dmaMode = .bypass := by
  obtain ⟨-, -, hself⟩ := dmaTransfer_frame hu
  cases hm : s.params.dmaMode with
  | selfBlocking => exact absurd (hself hm) hne
  | bypass => rfl

theorem Effect.ab_writer {i : Instr} {s t : State} (e : Effect i s t) (hne : t.ab ≠ s.ab) : ∃ b, i = .setBank b := by
  cases e with
  | answered r => exact absurd rfl hne
  | wroteByte a v => exact absurd (writeByte_ab a v s) hne
  | wroteWord a w => exact absurd ((writeByte_ab _ _ _).trans (writeByte_ab a _ s)) hne
  | selectedBank b hi => exact ⟨b, hi⟩
  | triggered k => exact absurd (congrArg State.ab (triggerInterrupt_frame k s)) hne
  | transferred p u _ hu => exact absurd (congrArg State.ab (dmaTransfer_frame hu).1) hne

theorem Effect.ie_writer {i : Instr} {s t : State} (e : Effect i s t) (hne : t.ie ≠ s.ie) :
    i.writesIn 0xFFFF 0x10000 = true := by
  rcases e.writer_of_changed ie_writtenIn hne with hw | ⟨k, -, -, hk⟩ | ⟨p, u, -, hu, hp⟩
  · exact hw
  · exact absurd (congrArg State.ie (triggerInterrupt_frame k s)) hk
  · exact absurd (congrArg State.ie (dmaTransfer_frame hu).1) hp

theorem Effect.bc_writer {i : Instr} {s t : State} (e : Effect i s t) (hne : t.bc ≠ s.bc) :
    i.writesIn 0x0000 0x8000 = true := by
  rcases e.writer_of_changed bc_writtenIn hne with hw | ⟨k, -, -, hk⟩ | ⟨p, u, -, hu, hp⟩
  · exact hw
  · exact absurd (congrArg State.bc (triggerInterrupt_frame k s)) hk
  · exact absurd (congrArg State.bc (dmaTransfer_frame hu).1) hp

theorem Effect.io_writer {i : Instr} {s t : State} (e : Effect i s t) (hne : t.io ≠ s.io) :
    i.writesIn 0xFF00 0xFFFF = true ∨
    ∃ k, i = .triggerInterrupt k ∧ ∀ j, j ≠ 0x0F → t.io.read j = s.io.read j := by
  rcases e.writer_of_changed io_writtenIn hne with hw | ⟨k, hi, ht, -⟩ | ⟨p, u, -, hu, hp⟩
  · exact .inl hw
  · refine .inr ⟨k, hi, fun j hj => ?_⟩
    rw [ht]
    exact triggerInterrupt_io_other hj
  · exact absurd (congrArg State.io (dmaTransfer_frame hu).1) hp

theorem Effect.storage_writer {i : Instr} {s t : State} (e : Effect i s t) (hne : t.storage ≠ s.storage) :
    i.writesIn 0x0000 0xFF00 = true ∨ ∃ p, i = .dmaTransfer p ∧ s.params.dmaMode = .bypass := by
  rcases e.writer_of_changed storage_writtenIn hne with hw | ⟨k, -, -, hk⟩ | ⟨p, u, hi, hu, hp⟩
  · exact .inl hw
  · exact absurd (congrArg State.storage (triggerInterrupt_frame k s)) hk
  · exact .inr ⟨p, hi, dmaTransfer_bypass_of_changed hu fun he => hp (by rw [he])⟩

/-- Settles O54: one writer lemma per register, over the effects of `exec`. -/
theorem eachRegisterHasItsWriters : Obligations.EachRegisterHasItsWriters := by
  unfold Obligations.EachRegisterHasItsWriters
  intro i s t hi h
  have e := effect_of_exec_next hi h
  exact ⟨e.ab_writer, e.ie_writer, e.io_writer, e.bc_writer, e.storage_writer⟩

/-! ### The hidden cells (O55) -/

/-- R37: a byte write at 0xFF00 or above stores nothing, and one below stores at its own address. -/
theorem writeByte_storage_hidden {s : State} {a : Addr} {v : Byte} {k : Nat} (hk : 0xFF00 ≤ k) :
    (writeByte a v s).storage.read k = s.storage.read k := by
  by_cases ha : 0xFF00 ≤ a.toNat
  · rw [writeByte_storage_of_ge ha]
  · exact writeByte_storage_other (by omega)

/-- R38: cell 0xFF would be at the address 0xFFFF, which is `IE`'s. -/
theorem writeByte_io_hidden {s : State} {a : Addr} {v : Byte} {k : Nat} (hk : 0xFF ≤ k) :
    (writeByte a v s).io.read k = s.io.read k := by
  by_cases ha : 0xFF00 ≤ a.toNat ∧ a.toNat < 0xFFFF
  · exact writeByte_io_other (by omega)
  · rw [writeByte_io_of_not_window ha]

theorem storage_hidden_keptByEffects {k : Nat} (hk : 0xFF00 ≤ k) (b : Byte) :
    KeptByEffects (fun s => s.storage.read k = b) where
  answer _ _ h := h
  byteWrite _ _ _ h := (writeByte_storage_hidden hk).trans h
  bankSelect _ _ h := h
  trigger j s h := by rwa [triggerInterrupt_frame j s]
  transfer p s u hu h := by
    obtain ⟨-, hother, -⟩ := dmaTransfer_frame hu
    exact (hother k (by omega)).trans h

theorem io_hidden_keptByEffects {k : Nat} (hk : 0xFF ≤ k) (b : Byte) : KeptByEffects (fun s => s.io.read k = b) where
  answer _ _ h := h
  byteWrite _ _ _ h := (writeByte_io_hidden hk).trans h
  bankSelect _ _ h := h
  trigger j s h := (triggerInterrupt_io_other (by unfold ifIndex; omega)).trans h
  transfer p s u hu h := by
    obtain ⟨hframe, -, -⟩ := dmaTransfer_frame hu
    rwa [hframe]

/-- Settles O55: every effect keeps what a hidden cell holds. -/
theorem hiddenCellsAreNeverWritten : Obligations.HiddenCellsAreNeverWritten := by
  unfold Obligations.HiddenCellsAreNeverWritten
  intro i s t hi h
  have e := effect_of_exec_next hi h
  exact ⟨fun k hk => (storage_hidden_keptByEffects hk _).of_effect e rfl,
    fun k hk => (io_hidden_keptByEffects hk _).of_effect e rfl⟩

/-! ### Construction (O1) -/

/-- Settles O1: the fields of `State.construct`, and the controller record of each variant. -/
theorem constructionLeavesTheResetValues : Obligations.ConstructionLeavesTheResetValues := by
  unfold Obligations.ConstructionLeavesTheResetValues
  refine ⟨fun p v => ⟨rfl, rfl, rfl, fun _ => rfl, rfl, rfl, ?_⟩, fun p => ⟨rfl, rfl, rfl, rfl, rfl⟩, rfl⟩
  exact Controller.constructed_variant p.resetMode v

end Sys2Proof.Machine

/-! ### Two states that no read can tell apart (O58) -/

namespace Sys2Proof.Machine

open Sys2Proof

/-- Under `BANK_AUTHORITY = ActiveBank`: the second state is the first but for a controller that no read can tell from the
first one's. -/
inductive Alike (s : State) : State → Prop where
  | intro (bc' : Controller) (hauth : s.params.bankAuthority = .activeBank) (hbc : sameReads s.bc bc' = true) :
      Alike s { s with bc := bc' }

theorem sameReads_refl (bc : Controller) : sameReads bc bc = true := by
  cases bc <;> simp [sameReads]

theorem Alike.refl {s : State} (hauth : s.params.bankAuthority = .activeBank) : Alike s s :=
  Alike.intro s.bc hauth (sameReads_refl s.bc)

theorem sameReads_type1 {r q : Type1Regs} :
    sameReads (.type1 r) (.type1 q) = true ↔ r.mode = q.mode ∧ r.ramBank = q.ramBank := by
  simp [sameReads]

/-- R172: Type1 reads only `mode` and `ram_bank`, the others no register. -/
theorem resolve_of_sameReads {bc bc' : Controller} (h : sameReads bc bc' = true) (requested : Nat) :
    resolve bc' requested = resolve bc requested :=
  match bc, bc', h with
  | .none, .none, _ => rfl
  | .type1 _, .type1 _, h => by
    obtain ⟨hmode, hram⟩ := sameReads_type1.mp h
    simp only [resolve, Type1Regs.resolve, hmode, hram]
  | .type2 _, .type2 _, _ => rfl
  | .type3 _, .type3 _, _ => rfl
  | .type5 _, .type5 _, _ => rfl

/-- R179 to R182: each Type1 cell computes `mode` and `ram_bank` from the byte, `mode` and `ram_bank` alone. -/
theorem Type1Regs.applyWrite_sameReads {r q : Type1Regs} (hmode : r.mode = q.mode) (hram : r.ramBank = q.ramBank)
    (c : ControlRange) (v : Byte) :
    (r.applyWrite c v).mode = (q.applyWrite c v).mode ∧ (r.applyWrite c v).ramBank = (q.applyWrite c v).ramBank := by
  cases c with
  | r0000 | r2000 | r3000 => exact ⟨hmode, hram⟩
  | r4000 =>
    simp only [Type1Regs.applyWrite, Type1Regs.setBankHi, hmode]
    split
    · exact ⟨rfl, hram⟩
    · exact ⟨rfl, rfl⟩
  | r6000 => exact ⟨rfl, hram⟩

/-- R179 to R194: a control write keeps two such controllers so. -/
theorem sameReads_written {bc bc' : Controller} (h : sameReads bc bc' = true) (c : ControlRange) (v : Byte) :
    sameReads (bc.written c v) (bc'.written c v) = true :=
  match bc, bc', h with
  | .none, .none, _ => rfl
  | .type1 _, .type1 _, h => by
    obtain ⟨hmode, hram⟩ := sameReads_type1.mp h
    exact sameReads_type1.mpr (Type1Regs.applyWrite_sameReads hmode hram c v)
  | .type2 _, .type2 _, _ => rfl
  | .type3 _, .type3 _, _ => rfl
  | .type5 _, .type5 _, _ => rfl

theorem none_iff_of_sameReads {bc bc' : Controller} (h : sameReads bc bc' = true) : bc = .none ↔ bc' = .none :=
  match bc, bc', h with
  | .none, .none, _ => Iff.rfl
  | .type1 _, .type1 _, _ | .type2 _, .type2 _, _ | .type3 _, .type3 _, _ | .type5 _, .type5 _, _ => ⟨nofun, nofun⟩

namespace Alike

variable {s s' : State}

theorem effectiveIndex_eq (h : Alike s s') : effectiveIndex s' = effectiveIndex s := by
  obtain ⟨bc', hauth, hbc⟩ := h
  simp only [effectiveIndex, requestedBank, hauth, resolve_of_sameReads hbc]

theorem ungatedRead_eq (h : Alike s s') (a : Addr) : ungatedRead a s' = ungatedRead a s := by
  have he := h.effectiveIndex_eq
  obtain ⟨bc', -, -⟩ := h
  unfold ungatedRead bankedRead
  rw [he]
  rfl

theorem params_eq (h : Alike s s') : s'.params = s.params := by cases h; rfl

theorem tip_eq (h : Alike s s') : s'.tip = s.tip := by cases h; rfl

theorem ie_eq (h : Alike s s') : s'.ie = s.ie := by cases h; rfl

theorem readByte_eq (h : Alike s s') (a : Addr) : readByte a s' = readByte a s := by
  rw [readByte, readByte, h.tip_eq, h.ungatedRead_eq]

theorem wordStops_eq (h : Alike s s') (a : Addr) : wordStops a s' = wordStops a s := by
  rw [wordStops, wordStops, h.params_eq]

theorem readWord_eq (h : Alike s s') (a : Addr) : readWord a s' = readWord a s := by
  rw [readWord, readWord, readPair, readPair, h.wordStops_eq, h.readByte_eq, h.readByte_eq]

/-- An update that neither reads the controller nor writes it or the parameters. -/
theorem update (h : Alike s s') {f : State → State} (hcomm : ∀ u bc, f { u with bc := bc } = { f u with bc := bc })
    (hbc : (f s).bc = s.bc) (hparams : (f s).params = s.params) : Alike (f s) (f s') := by
  obtain ⟨bc', hauth, hsame⟩ := h
  rw [hcomm s bc']
  exact .intro bc' (hparams ▸ hauth) (hbc ▸ hsame)

theorem withRsp (h : Alike s s') (r : Response) : Alike { s with rsp := r } { s' with rsp := r } :=
  h.update (f := fun u => { u with rsp := r }) (fun _ _ => rfl) rfl rfl

theorem withTip (h : Alike s s') (b : Bool) : Alike { s with tip := b } { s' with tip := b } :=
  h.update (f := fun u => { u with tip := b }) (fun _ _ => rfl) rfl rfl

theorem withAb (h : Alike s s') (b : Byte) : Alike { s with ab := b } { s' with ab := b } :=
  h.update (f := fun u => { u with ab := b }) (fun _ _ => rfl) rfl rfl

theorem withIe (h : Alike s s') (v : Byte) : Alike { s with ie := v } { s' with ie := v } :=
  h.update (f := fun u => { u with ie := v }) (fun _ _ => rfl) rfl rfl

theorem storeCell (h : Alike s s') (a : Nat) (v : Byte) : Alike (storeCell a v s) (storeCell a v s') :=
  h.update (fun _ _ => rfl) rfl rfl

theorem storeIo (h : Alike s s') (i : Nat) (v : Byte) : Alike (storeIo i v s) (storeIo i v s') :=
  h.update (fun _ _ => rfl) rfl rfl

theorem triggerInterrupt (h : Alike s s') (k : Kind) : Alike (triggerInterrupt k s) (triggerInterrupt k s') := by
  have hframe := triggerInterrupt_frame k s
  refine h.update (fun u bc => ?_) (by rw [hframe]) (by rw [hframe])
  unfold Machine.triggerInterrupt
  split <;> rfl

theorem applyWrite (h : Alike s s') (a : Addr) (v : Byte) : Alike (applyWrite a v s) (applyWrite a v s') := by
  by_cases hnone : s.bc = .none
  · have hstore := h.storeCell a.toNat v
    obtain ⟨bc', hauth, hbc⟩ := h
    rw [applyWrite_none a v hnone, applyWrite_none a v ((none_iff_of_sameReads hbc).mp hnone)]
    exact hstore
  · obtain ⟨bc', hauth, hbc⟩ := h
    have hnone' : bc' ≠ .none := fun he => hnone ((none_iff_of_sameReads hbc).mpr he)
    rw [applyWrite_of_banked a v hnone, applyWrite_of_banked (s := { s with bc := bc' }) a v hnone']
    exact .intro (s := { s with bc := s.bc.written (controlRange a) v }) _ hauth (sameReads_written hbc _ _)

theorem ungatedWrite (h : Alike s s') (a : Addr) (v : Byte) : Alike (ungatedWrite a v s) (ungatedWrite a v s') := by
  unfold Machine.ungatedWrite
  cases region a with
  | low | banked => exact h.applyWrite a v
  | high => exact h.storeCell _ v
  | io => exact h.storeIo _ v
  | ie => exact h.withIe v

theorem writeByte (h : Alike s s') (a : Addr) (v : Byte) : Alike (writeByte a v s) (writeByte a v s') := by
  unfold Machine.writeByte
  rw [h.tip_eq]
  split
  · exact h
  · exact h.ungatedWrite a v

theorem writePair (h : Alike s s') (a : Addr) (w : Word) : Alike (writePair a w s) (writePair a w s') :=
  (h.writeByte a (loByte w)).writeByte (secondAddr a) (hiByte w)

theorem copyRead_eq (h : Alike s s') (a : Addr) : copyRead a s' = copyRead a s := by
  rw [copyRead, copyRead, h.params_eq, h.readByte_eq, h.ungatedRead_eq]

theorem copyWrite (h : Alike s s') (a : Addr) (v : Byte) : Alike (copyWrite a v s) (copyWrite a v s') := by
  unfold Machine.copyWrite
  rw [h.params_eq]
  split
  · exact h.writeByte a v
  · exact h.storeCell _ v

end Alike

/-- Two results that stop alike or go on to states that no read can tell apart. -/
inductive AlikeResult : Except Fault State → Except Fault State → Prop where
  | ok {s s' : State} (h : Alike s s') : AlikeResult (.ok s) (.ok s')
  | error (f : Fault) : AlikeResult (.error f) (.error f)

namespace Alike

variable {s s' : State}

theorem writeWord (h : Alike s s') (a : Addr) (w : Word) : AlikeResult (writeWord a w s) (writeWord a w s') := by
  unfold Machine.writeWord
  rw [h.wordStops_eq]
  split
  · exact .error _
  · exact .ok (h.writePair a w)

theorem copyStep (h : Alike s s') (p : Byte) (i : Nat) : AlikeResult (copyStep p i s) (copyStep p i s') := by
  unfold Machine.copyStep
  rw [h.copyRead_eq]
  cases copyRead (dmaSource p i) s with
  | error f => exact .error f
  | ok v => exact .ok (h.copyWrite _ v)

theorem copyLoop (h : Alike s s') (p : Byte) (n i : Nat) : AlikeResult (copyLoop p n i s) (copyLoop p n i s') := by
  induction n generalizing i s s' with
  | zero => exact .ok h
  | succ n ih =>
    have hstep := h.copyStep p i
    unfold Machine.copyLoop
    generalize Machine.copyStep p i s = r, Machine.copyStep p i s' = r' at hstep ⊢
    cases hstep with
    | error f => exact .error f
    | ok h' => exact ih h' (i + 1)

theorem dmaTransfer (h : Alike s s') (p : Byte) : AlikeResult (dmaTransfer p s) (dmaTransfer p s') := by
  unfold Machine.dmaTransfer
  rw [h.tip_eq]
  split
  · exact .ok h
  · have hloop := (h.withTip true).copyLoop p dmaLen 0
    generalize Machine.copyLoop p dmaLen 0 { s with tip := true } = r,
      Machine.copyLoop p dmaLen 0 { s' with tip := true } = r' at hloop ⊢
    cases hloop with
    | error f => exact .error f
    | ok h' => exact .ok (h'.withTip false)

end Alike

/-- Two outcomes that are the same stop, or next states that no read can tell apart. -/
inductive AlikeOutcome : Host.Outcome State Fault Refusal → Host.Outcome State Fault Refusal → Prop where
  | next {s s' : State} (h : Alike s s') : AlikeOutcome (.next s) (.next s')
  | fault (f : Fault) : AlikeOutcome (.fault f) (.fault f)
  | refused (r : Refusal) : AlikeOutcome (.refused r) (.refused r)

namespace AlikeOutcome

variable {o' : Host.Outcome State Fault Refusal}

theorem eq_fault {f : Fault} (h : AlikeOutcome (.fault f) o') : o' = .fault f := by cases h; rfl

theorem eq_refused {r : Refusal} (h : AlikeOutcome (.refused r) o') : o' = .refused r := by cases h; rfl

theorem exists_next {t : State} (h : AlikeOutcome (.next t) o') :
    ∃ bc', o' = .next { t with bc := bc' } ∧ sameReads t.bc bc' = true := by
  cases h with
  | next h =>
    obtain ⟨bc', -, hbc⟩ := h
    exact ⟨bc', rfl, hbc⟩

theorem respondByte (r : Except Fault Byte) {s s' : State} (h : Alike s s') :
    AlikeOutcome (respondByte r s) (respondByte r s') := by
  cases r with
  | ok v => exact .next (h.withRsp _)
  | error f => exact .fault f

theorem respondWord (r : Except Fault Word) {s s' : State} (h : Alike s s') :
    AlikeOutcome (respondWord r s) (respondWord r s') := by
  cases r with
  | ok v => exact .next (h.withRsp _)
  | error f => exact .fault f

theorem respondUnit {r r' : Except Fault State} (h : AlikeResult r r') :
    AlikeOutcome (respondUnit r) (respondUnit r') := by
  cases h with
  | ok h => exact .next (h.withRsp _)
  | error f => exact .fault f

theorem constructInstance {s s' : State} (v : Variant) (h : Alike s s') :
    AlikeOutcome (constructInstance v s) (constructInstance v s') := by
  obtain ⟨bc', hauth, -⟩ := h
  exact .next (.refl hauth)

end AlikeOutcome

theorem Alike.exec {s s' : State} (h : Alike s s') (i : Instr) : AlikeOutcome (exec i s) (exec i s') := by
  by_cases hi : i.isStrap = true
  · obtain ⟨v, hv⟩ := strap_cases i hi
    rw [hv, hv]
    exact .constructInstance v h
  rw [Bool.not_eq_true] at hi
  rw [exec_eq_exec_command i s, exec_eq_exec_command i s']
  rcases command_cases i hi with ⟨a, hc⟩ | ⟨a, v, hc⟩ | ⟨a, hc⟩ | ⟨a, w, rfl⟩ | ⟨b, rfl⟩ | ⟨k, rfl⟩ | ⟨k, rfl⟩ |
    ⟨p, rfl⟩ | ⟨o, a, d, rfl⟩
  · rw [hc, exec_readByte, exec_readByte, h.readByte_eq]
    exact .respondByte _ h
  · rw [hc, exec_writeByte, exec_writeByte]
    exact .next ((h.writeByte a v).withRsp _)
  · rw [hc]
    show AlikeOutcome (respondWord (readWord a s) s) (respondWord (readWord a s') s')
    rw [h.readWord_eq]
    exact .respondWord _ h
  · exact .respondUnit (h.writeWord a w)
  · exact .next ((h.withAb b).withRsp .unit)
  · show AlikeOutcome (respond (.flag (kindEnabled s.ie k)) s) (respond (.flag (kindEnabled s'.ie k)) s')
    rw [h.ie_eq]
    exact .next (h.withRsp _)
  · exact .next ((h.triggerInterrupt k).withRsp .unit)
  · exact .respondUnit (h.dmaTransfer p)
  · exact .refused _

/-- Settles O58: an operation takes states that no read can tell apart to outcomes that no read can tell apart. -/
theorem controlRegistersGateNothing : Obligations.ControlRegistersGateNothing := by
  unfold Obligations.ControlRegistersGateNothing
  intro i s bc' hauth hbc
  have hout := (Alike.intro bc' hauth hbc).exec i
  refine ⟨fun f hf => ?_, fun r hr => ?_, fun t ht => ?_⟩
  · rw [hf] at hout
    exact hout.eq_fault
  · rw [hr] at hout
    exact hout.eq_refused
  · rw [ht] at hout
    exact hout.exists_next

end Sys2Proof.Machine

/-! ### Reads with the gate open: what each outcome depends on -/

namespace Sys2Proof.Machine

open Sys2Proof

/-- R84: every row that shares the words of `read_byte` acts as it. -/
theorem exec_of_mem_readRows {a : Addr} {i : Instr} (hi : i ∈ readRows a) (s : State) : exec i s = exec (.readByte a) s := by
  have hc : ∀ j ∈ readRows a, j.command = .readByte a := by simp [readRows, Instr.command]
  rw [exec_eq_exec_command, hc i hi]

/-- The rows of `read_byte` that can read in the banked window (R113). -/
theorem exec_windowRows (a : Addr) (s : State) :
    ∀ i ∈ [Instr.readByte a, .readByteBanked a, .resolveNone a, .resolveType1 a, .resolveType2 a, .resolveType3 a,
      .resolveType5 a], exec i s = exec (.readByte a) s := by
  intro i hi
  have hsub : [Instr.readByte a, .readByteBanked a, .resolveNone a, .resolveType1 a, .resolveType2 a, .resolveType3 a,
      .resolveType5 a] ⊆ readRows a := by simp [readRows]
  exact exec_of_mem_readRows (hsub hi) s

theorem exec_readByte_of_readable {s : State} {a : Addr} (ht : s.tip = false) (h : Readable s a.toNat) :
    exec (.readByte a) s = .next { s with rsp := .byte (busByte s a.toNat) } := by
  rw [exec_readByte, readByte_busByte ht h]
  rfl

/-- R212. -/
theorem exec_readByte_of_not_readable {s : State} {a : Addr} (ht : s.tip = false) (h : ¬ Readable s a.toNat) :
    exec (.readByte a) s = .fault (.bankedReadOutOfRange a (effectiveIndex s)) := by
  rw [exec_readByte, readByte_outOfRange ht h]
  rfl

theorem readable_of_high {s : State} {k : Nat} (h : 0x8000 ≤ k) : Readable s k := .inr (.inl h)

/-! ### The banked window (O17, O18) -/

/-- R58: an effective index of at most 2 keeps the effective address in storage. -/
theorem exec_readByte_window {s : State} {a : Addr} (ht : s.tip = false) (ha : 0x4000 ≤ a.toNat)
    (ha' : a.toNat < 0x8000) (he : effectiveIndex s ≤ 2) :
    exec (.readByte a) s = .next { s with rsp := .byte (s.storage.read (a.toNat + effectiveIndex s * 0x4000)) } := by
  have hr : Readable s a.toNat := .inr (.inr (.inl he))
  rw [exec_readByte_of_readable ht hr, busByte_banked ha ha', Nat.mod_eq_of_lt (by omega)]

/-- Settles O17: each row is the command, and the address map gives the banked cell. -/
theorem bankedReadsReturnTheBankedCell : Obligations.BankedReadsReturnTheBankedCell := by
  unfold Obligations.BankedReadsReturnTheBankedCell
  intro s a ht ha ha' he i hi
  rw [exec_windowRows a s i hi, exec_readByte_window ht ha ha' he]

/-- Settles O18: beyond index 2 the window is readable exactly under `Wrap16`. -/
theorem bankedReadsBeyondStorage : Obligations.BankedReadsBeyondStorage := by
  unfold Obligations.BankedReadsBeyondStorage
  intro s a ht ha ha' he i hi
  rw [exec_windowRows a s i hi]
  refine ⟨fun hfault => ?_, fun hwrap => ?_⟩
  · have hr : ¬ Readable s a.toNat := by
      rintro (h | h | h | h)
      · omega
      · omega
      · omega
      · simp [hfault] at h
    exact exec_readByte_of_not_readable ht hr
  · have hr : Readable s a.toNat := .inr (.inr (.inr hwrap))
    rw [exec_readByte_of_readable ht hr, busByte_banked ha ha']

/-! ### Reads have no side effects (O22) -/

/-- Settles O22: the inversion lemma of each of the three reading commands. -/
theorem readsChangeNoState : Obligations.ReadsChangeNoState := by
  unfold Obligations.ReadsChangeNoState
  intro s t a k i hi h
  rcases List.mem_cons.mp hi with rfl | hi
  · exact next_of_readWord h
  rcases List.mem_cons.mp hi with rfl | hi
  · cases h
    rfl
  · rw [exec_of_mem_readRows hi] at h
    exact next_of_readByte h

/-! ### Word reads (O34) -/

/-- R132: only at 0xFFFF can a word read stop before its first byte. -/
theorem exec_readWord {a : Addr} {s : State} (h : a ≠ 0xFFFF#16) :
    exec (.readWord a) s = respondWord (readPair a s) s := by
  show respondWord (readWord a s) s = _
  simp [readWord, wordStops, h]

theorem secondAddr_toNat_of_ne {a : Addr} (h : a ≠ 0xFFFF#16) : (secondAddr a).toNat = a.toNat + 1 := by
  have hlt := a.isLt
  have hne : a.toNat ≠ 0xFFFF := fun he => h (BitVec.eq_of_toNat_eq he)
  rw [secondAddr_toNat, Nat.mod_eq_of_lt (by omega)]

theorem readPair_rsp (a : Addr) (s : State) (r : Response) : readPair a { s with rsp := r } = readPair a s := rfl

theorem readPair_of_ok {a : Addr} {s : State} {lo hi : Byte} (hlo : readByte a s = .ok lo)
    (hhi : readByte (secondAddr a) s = .ok hi) : readPair a s = .ok (wordOf hi lo) := by
  simp only [readPair, hlo, hhi]

/-- D17: the low byte's outcome comes first, whatever the second byte's is. -/
theorem readPair_of_low_error {a : Addr} {s : State} {f : Fault} (hlo : readByte a s = .error f) :
    readPair a s = .error f := by
  simp only [readPair, hlo]

theorem readPair_of_high_error {a : Addr} {s : State} {lo : Byte} {f : Fault} (hlo : readByte a s = .ok lo)
    (hhi : readByte (secondAddr a) s = .error f) : readPair a s = .error f := by
  simp only [readPair, hlo, hhi]

/-- R52, R130: the little-endian composition of the two bytes, each by its own address. -/
theorem exec_readWord_of_readable {s : State} {a : Addr} (hne : a ≠ 0xFFFF#16) (ht : s.tip = false)
    (hlo : Readable s a.toNat) (hhi : Readable s (a.toNat + 1)) :
    exec (.readWord a) s = .next { s with rsp := .word (busByte s (a.toNat + 1) ++ busByte s a.toNat) } := by
  rw [← secondAddr_toNat_of_ne hne] at hhi ⊢
  rw [exec_readWord hne, readPair_of_ok (readByte_busByte ht hlo) (readByte_busByte ht hhi), wordOf_eq_append]
  rfl

/-- Settles O34: the gated pair, and the four outcomes of the two byte reads. -/
theorem readWordComposesTwoByteReads : Obligations.ReadWordComposesTwoByteReads := by
  unfold Obligations.ReadWordComposesTwoByteReads
  intro s a hne
  refine ⟨fun ht => ?_, exec_readWord_of_readable hne, fun ht hlo => ?_, fun ht hlo hhi => ?_⟩
  · rw [exec_readWord hne, readPair_of_ok (readByte_gated _ ht) (readByte_gated _ ht)]
    rfl
  · rw [exec_readWord hne, readPair_of_low_error (readByte_outOfRange ht hlo)]
    rfl
  · rw [← secondAddr_toNat_of_ne hne] at hhi
    rw [exec_readWord hne, readPair_of_high_error (readByte_busByte ht hlo) (readByte_outOfRange ht hhi)]
    rfl

end Sys2Proof.Machine

/-! ### Reads after writes (O40, O41, O56) -/

namespace Sys2Proof.Machine

open Sys2Proof

/-- R113, R141: a write at 0x8000 or above reaches none of `AB`, the parameters and the controller's registers, of which the
index is computed. -/
theorem effectiveIndex_writeByte_of_high {s : State} {a : Addr} {v : Byte} (ha : 0x8000 ≤ a.toNat) :
    effectiveIndex (writeByte a v s) = effectiveIndex s :=
  effectiveIndex_congr (by simp) (writeByte_bc_other ha) (by simp)

/-- From 0x8000 up the bus gives back the byte written, whichever of HIGH, IO and IE holds it. -/
theorem busByte_writeByte_same {s : State} {a : Addr} {v : Byte} (ht : s.tip = false) (ha : 0x8000 ≤ a.toNat) :
    busByte (writeByte a v s) a.toNat = v := by
  rcases writeByte_cases a v s with ⟨hclosed, -⟩ | ⟨-, -, hlt, e⟩ | ⟨-, hge, hlt, e⟩ | ⟨-, rfl, e⟩ | ⟨-, hlt, -⟩ |
    ⟨-, hlt, -⟩
  · simp [ht] at hclosed
  · rw [e, busByte_high ha hlt]
    exact Memory.read_write_same _ _ v
  · rw [e, busByte_io hge hlt]
    exact Memory.read_write_same _ _ v
  · rw [e]
    exact busByte_ie _
  · omega
  · omega

/-- From 0x8000 up a byte write changes what the bus gives at its own address only. -/
theorem busByte_writeByte_other {s : State} {a b : Addr} {v : Byte} (hb : 0x8000 ≤ b.toNat) (hne : b ≠ a) :
    busByte (writeByte a v s) b.toNat = busByte s b.toNat := by
  have hne' : b.toNat ≠ a.toNat := fun he => hne (BitVec.eq_of_toNat_eq he)
  by_cases hhigh : b.toNat < 0xFF00
  · rw [busByte_high hb hhigh, busByte_high hb hhigh, writeByte_storage_other hne']
  by_cases hio : b.toNat < 0xFFFF
  · rw [busByte_io (by omega) hio, busByte_io (by omega) hio, writeByte_io_other (by omega)]
  · have htop : b = 0xFFFF#16 := BitVec.eq_of_toNat_eq (by have := b.isLt; simp; omega)
    subst htop
    exact writeByte_ie_other hne.symm

/-- 40_byte_access.md section 3: the round trip of one byte; the response of the write is not read. -/
theorem exec_readByte_after_writeByte {s : State} {a : Addr} {v : Byte} {r : Response} (ht : s.tip = false)
    (ha : 0x8000 ≤ a.toNat) :
    exec (.readByte a) { writeByte a v s with rsp := r } = .next { writeByte a v s with rsp := .byte v } := by
  have htip : (writeByte a v s).tip = false := (writeByte_tip a v s).trans ht
  rw [exec_readByte, readByte_rsp, readByte_busByte htip (readable_of_high ha), busByte_writeByte_same ht ha]
  rfl

/-- Settles O40: under None the write is stored at the bus address itself, which is the banked cell exactly when the index
is 0. -/
theorem windowRoundTripNeedsBankZero : Obligations.WindowRoundTripNeedsBankZero := by
  unfold Obligations.WindowRoundTripNeedsBankZero
  intro s a v ht hbc ha ha' he
  have hwrite : writeByte a v s = storeCell a.toNat v s := by rw [writeByte_control ht ha', applyWrite_none a v hbc]
  refine ⟨_, exec_writeByte a v s, ?_⟩
  rw [hwrite]
  have hindex : effectiveIndex { storeCell a.toNat v s with rsp := .unit } = effectiveIndex s := rfl
  have hread := exec_readByte_window (s := { storeCell a.toNat v s with rsp := .unit }) ht ha ha' he
  rw [hindex] at hread
  refine ⟨fun hzero => ?_, fun hnonzero => ?_⟩
  · rw [hread, hzero, Nat.zero_mul, Nat.add_zero, storeCell_storage, Memory.read_write_same]
  · rw [hread, storeCell_storage, Memory.read_write_other _ _ (by omega)]

/-- The second byte is written at another address, so both bytes of a word written from 0x8000 up stand on the bus. -/
theorem busByte_writePair {s : State} {a : Addr} {w : Word} (ht : s.tip = false) (ha : 0x8000 ≤ a.toNat)
    (hne : a ≠ 0xFFFF#16) :
    busByte (writePair a w s) a.toNat = loByte w ∧ busByte (writePair a w s) (secondAddr a).toNat = hiByte w := by
  have hsecond := secondAddr_toNat_of_ne hne
  have htip : (writeByte a (loByte w) s).tip = false := (writeByte_tip a (loByte w) s).trans ht
  have hdiff : a ≠ secondAddr a := fun he => by rw [← he] at hsecond; omega
  refine ⟨?_, busByte_writeByte_same htip (by omega)⟩
  rw [writePair, busByte_writeByte_other ha hdiff, busByte_writeByte_same ht ha]

theorem writePair_tip (a : Addr) (w : Word) (s : State) : (writePair a w s).tip = s.tip := by simp [writePair]

/-- Settles O41: both bytes stand on the bus after the write, and the reads give what the bus holds. -/
theorem wordsRoundTripFrom8000 : Obligations.WordsRoundTripFrom8000 := by
  unfold Obligations.WordsRoundTripFrom8000
  intro s a w ht ha hne
  have hsecond := secondAddr_toNat_of_ne hne
  obtain ⟨hlo, hhi⟩ := busByte_writePair (w := w) ht ha hne
  have htip : (writePair a w s).tip = false := (writePair_tip a w s).trans ht
  have hreadLo : readByte a (writePair a w s) = .ok (loByte w) := by
    rw [readByte_busByte htip (readable_of_high ha), hlo]
  have hreadHi : readByte (secondAddr a) (writePair a w s) = .ok (hiByte w) := by
    rw [readByte_busByte htip (readable_of_high (by omega)), hhi]
  refine ⟨_, exec_writeWord hne, ?_, ?_, ?_⟩
  · rw [exec_readWord hne, readPair_rsp, readPair_of_ok hreadLo hreadHi, wordOf_halves]
    rfl
  · rw [exec_readByte, readByte_rsp, hreadLo]
    rfl
  · show exec (.readByte (secondAddr a)) _ = _
    rw [exec_readByte, readByte_rsp, hreadHi]
    rfl

/-- R60: the window at an index of at least 1 and HIGH at the effective address are the same cell. -/
theorem exec_readByte_alias {s : State} {a b : Addr} (ht : s.tip = false) (ha : 0x4000 ≤ a.toNat)
    (ha' : a.toNat < 0x8000) (hb : b.toNat < 0xFF00) (he : 1 ≤ effectiveIndex s)
    (hab : b.toNat = a.toNat + effectiveIndex s * 0x4000) : exec (.readByte a) s = exec (.readByte b) s := by
  have hhigh : 0x8000 ≤ b.toNat := by omega
  rw [exec_readByte_window ht ha ha' (by omega), ← hab, exec_readByte_of_readable ht (readable_of_high hhigh),
    busByte_high hhigh hb]

/-- Settles O56: a write in HIGH keeps the index, so the alias holds after it as before it. -/
theorem windowAliasesHigh : Obligations.WindowAliasesHigh := by
  unfold Obligations.WindowAliasesHigh
  intro s a b v ht ha ha' hb he hab
  have hpos : 1 ≤ effectiveIndex s := by omega
  have hhigh : 0x8000 ≤ b.toNat := by omega
  refine ⟨exec_readByte_alias ht ha ha' hb hpos hab, _, exec_writeByte b v s, ?_⟩
  have hindex : effectiveIndex { writeByte b v s with rsp := .unit } = effectiveIndex s :=
    effectiveIndex_writeByte_of_high hhigh
  have htip : State.tip { writeByte b v s with rsp := .unit } = false := (writeByte_tip b v s).trans ht
  rw [exec_readByte_alias htip ha ha' hb (hindex ▸ hpos) (hindex ▸ hab), exec_readByte_after_writeByte ht hhigh]

end Sys2Proof.Machine

/-! ### The encoding: decode after encode (O6) -/

namespace Sys2Proof

/-- R81 to R86: the rows that share a command's words are encoded as that command, so each comes down to a CMD or STRAP row. -/
theorem decode_encode {i : Instr} (hwf : i.wellFormed = true) : decode (encode i) = .ok i.command := by
  cases i with
  | readByte a | readByteIe a | readByteIo a | readByteHigh a | readByteBanked a | readByteLow a
  | resolveNone a | resolveType1 a | resolveType2 a | resolveType3 a | resolveType5 a => exact decode_readByte a
  | writeByte a v | writeByteIe a v | writeByteIo a v | writeByteHigh a v | writeByteCtl a v | applyWriteNone a v
  | applyWriteType1RamEnable a v | applyWriteType1RomBankLo a v | applyWriteType1BankHi a v | applyWriteType1Mode a v
  | applyWriteType2RamEnable a v | applyWriteType2RomBank a v | applyWriteType2Nop a v
  | applyWriteType3RamEnable a v | applyWriteType3RomBank a v | applyWriteType3RamBank a v | applyWriteType3Nop a v
  | applyWriteType5RamEnable a v | applyWriteType5RomBankLo a v | applyWriteType5RomBankHi a v
  | applyWriteType5RamBank a v | applyWriteType5Nop a v => exact decode_writeByte a v
  | readWord a => exact Laws.RoundTrip.readWord a hwf
  | writeWord a w => exact Laws.RoundTrip.writeWord a w hwf
  | setBank b => exact Laws.RoundTrip.setBank b hwf
  | checkInterrupt k => exact Laws.RoundTrip.checkInterrupt k hwf
  | triggerInterrupt k => exact Laws.RoundTrip.triggerInterrupt k hwf
  | dmaTransfer p => exact Laws.RoundTrip.dmaTransfer p hwf
  | reserved op a d => exact Laws.RoundTrip.reserved op a d hwf
  | variantNone | variantType1 | variantType2 | variantType3 | variantType5 => rfl

/-- R82, R92: the command port answers CMD rows only, and the reserved row only for a reserved code. -/
theorem command_and_wellFormed_of_decodeCommand {w : Command} {i : Instr} (h : decodeCommand w = .ok i) :
    i.command = i ∧ i.wellFormed = true := by
  rcases decodeCommand_cases h with ⟨-, rfl⟩ | ⟨-, rfl⟩ | ⟨-, rfl⟩ | ⟨-, rfl⟩ | ⟨-, rfl⟩ | ⟨-, k, -, rfl⟩ |
    ⟨-, k, -, rfl⟩ | ⟨-, rfl⟩ | ⟨hop, rfl⟩
  case inr.inr.inr.inr.inr.inr.inr.inr => exact ⟨rfl, decide_eq_true hop⟩
  all_goals exact ⟨rfl, rfl⟩

/-- R86: the strap answers STRAP rows only. -/
theorem command_and_wellFormed_of_decodeStrap {tag : StrapTag} {i : Instr} (h : decodeStrap tag = .ok i) :
    i.command = i ∧ i.wellFormed = true := by
  rcases decodeStrap_cases h with ⟨-, rfl⟩ | ⟨-, rfl⟩ | ⟨-, rfl⟩ | ⟨-, rfl⟩ | ⟨-, rfl⟩ <;> exact ⟨rfl, rfl⟩

/-- Settles O6: `decode_encode` row by row, and the inversion lemmas of the two ports. -/
theorem encodeThenDecodeGivesTheCommand : Obligations.EncodeThenDecodeGivesTheCommand := by
  unfold Obligations.EncodeThenDecodeGivesTheCommand
  refine ⟨fun i hwf => decode_encode hwf, fun r i h => ?_⟩
  cases r with
  | command w => exact command_and_wellFormed_of_decodeCommand h
  | strap tag => exact command_and_wellFormed_of_decodeStrap h

end Sys2Proof

/-! ### Fields and masks of a command word (O7, O8) -/

namespace Sys2Proof

/-- R81: a command word is its three fields. -/
theorem Command.assemble_inj {op op' : BitVec 4} {a a' : Addr} {d d' : Word} :
    Command.assemble op a d = Command.assemble op' a' d' ↔ op = op' ∧ a = a' ∧ d = d' := by
  refine ⟨fun h => ?_, fun ⟨hop, ha, hd⟩ => by rw [hop, ha, hd]⟩
  have hop := congrArg Command.op h
  have ha := congrArg Command.addr h
  have hd := congrArg Command.data h
  simp only [op_assemble, addr_assemble, data_assemble] at hop ha hd
  exact ⟨hop, ha, hd⟩

theorem Command.op_and_allOnes (w : Command) : w.op &&& 0xF#4 = w.op := BitVec.and_allOnes

theorem Command.addr_and_allOnes (w : Command) : w.addr &&& 0xFFFF#16 = w.addr := BitVec.and_allOnes

/-! Each row of the operand table (R83): its mask keeps `op` and the operand fields, and clears every other bit. -/

theorem Command.and_addrMask (w : Command) : w &&& 0xFFFFF0000#36 = Command.assemble w.op w.addr 0#16 := by
  rw [Command.and_mask]
  show Command.assemble (w.op &&& 0xF#4) (w.addr &&& 0xFFFF#16) (w.data &&& 0#16) = _
  rw [Command.op_and_allOnes, Command.addr_and_allOnes, BitVec.and_zero]

theorem Command.and_addrByteMask (w : Command) :
    w &&& 0xFFFFF00FF#36 = Command.assemble w.op w.addr (w.byteOperand.setWidth 16) := by
  rw [Command.and_mask, Command.byteOperand_setWidth]
  show Command.assemble (w.op &&& 0xF#4) (w.addr &&& 0xFFFF#16) (w.data &&& 0x00FF#16) = _
  rw [Command.op_and_allOnes, Command.addr_and_allOnes]

theorem Command.and_byteMask (w : Command) :
    w &&& 0xF000000FF#36 = Command.assemble w.op 0#16 (w.byteOperand.setWidth 16) := by
  rw [Command.and_mask, Command.byteOperand_setWidth]
  show Command.assemble (w.op &&& 0xF#4) (w.addr &&& 0#16) (w.data &&& 0x00FF#16) = _
  rw [Command.op_and_allOnes, BitVec.and_zero]

theorem Command.and_kindMask (w : Command) :
    w &&& 0xF00000007#36 = Command.assemble w.op 0#16 (w.kindOperand.setWidth 16) := by
  rw [Command.and_mask, Command.kindOperand_setWidth]
  show Command.assemble (w.op &&& 0xF#4) (w.addr &&& 0#16) (w.data &&& 0x0007#16) = _
  rw [Command.op_and_allOnes, BitVec.and_zero]

theorem Command.and_fullMask (w : Command) : w &&& 0xFFFFFFFFF#36 = w := BitVec.and_allOnes

/-- R83, R84: the canonical encoding of what a command word decodes to, row by row of the operand table. -/
theorem encode_of_decodeCommand {w : Command} {i : Instr} (h : decodeCommand w = .ok i) :
    encode i = .command (w &&& usedBits i) := by
  rcases decodeCommand_cases h with ⟨hop, rfl⟩ | ⟨hop, rfl⟩ | ⟨hop, rfl⟩ | ⟨hop, rfl⟩ | ⟨hop, rfl⟩ | ⟨hop, k, hk, rfl⟩ |
    ⟨hop, k, hk, rfl⟩ | ⟨hop, rfl⟩ | ⟨-, rfl⟩
  · rw [usedBits, Command.and_addrMask, hop, encode]
  · rw [usedBits, Command.and_addrByteMask, hop, encode]
  · rw [usedBits, Command.and_addrMask, hop, encode]
  · rw [usedBits, Command.and_fullMask, encode, ← hop, Command.assemble_fields]
  · rw [usedBits, Command.and_byteMask, hop, encode]
  · rw [usedBits, Command.and_kindMask, hop, encode, Kind.code_of_ofCode hk]
  · rw [usedBits, Command.and_kindMask, hop, encode, Kind.code_of_ofCode hk]
  · rw [usedBits, Command.and_byteMask, hop, encode]
  · rw [usedBits, Command.and_fullMask, encode, Command.assemble_fields]

/-- R86: the strap ignores no bit. -/
theorem encode_of_decodeStrap {tag : StrapTag} {i : Instr} (h : decodeStrap tag = .ok i) : encode i = .strap tag := by
  rcases decodeStrap_cases h with ⟨rfl, rfl⟩ | ⟨rfl, rfl⟩ | ⟨rfl, rfl⟩ | ⟨rfl, rfl⟩ | ⟨rfl, rfl⟩ <;> rfl

/-- Settles O7: the canonical encoding at each of the two ports. -/
theorem decodeThenEncodeIsCanonical : Obligations.DecodeThenEncodeIsCanonical := by
  unfold Obligations.DecodeThenEncodeIsCanonical
  exact ⟨fun _ _ h => encode_of_decodeCommand h, fun _ _ h => encode_of_decodeStrap h⟩

/-! Words that agree on a row's mask agree on `op` and on the row's operands (R83). -/

theorem Command.byteOperand_eq_of_setWidth {w w' : Command}
    (h : w.byteOperand.setWidth 16 = w'.byteOperand.setWidth 16) : w'.byteOperand = w.byteOperand := by
  have := congrArg (BitVec.setWidth 8) h
  simpa using this.symm

theorem Command.kindOperand_eq_of_setWidth {w w' : Command}
    (h : w.kindOperand.setWidth 16 = w'.kindOperand.setWidth 16) : w'.kindOperand = w.kindOperand := by
  have := congrArg (BitVec.setWidth 3) h
  simpa using this.symm

theorem Command.eq_of_and_addrMask {w w' : Command} (h : w &&& 0xFFFFF0000#36 = w' &&& 0xFFFFF0000#36) :
    w'.op = w.op ∧ w'.addr = w.addr := by
  rw [Command.and_addrMask, Command.and_addrMask, Command.assemble_inj] at h
  obtain ⟨hop, ha, -⟩ := h
  exact ⟨hop.symm, ha.symm⟩

theorem Command.eq_of_and_addrByteMask {w w' : Command} (h : w &&& 0xFFFFF00FF#36 = w' &&& 0xFFFFF00FF#36) :
    w'.op = w.op ∧ w'.addr = w.addr ∧ w'.byteOperand = w.byteOperand := by
  rw [Command.and_addrByteMask, Command.and_addrByteMask, Command.assemble_inj] at h
  obtain ⟨hop, ha, hd⟩ := h
  exact ⟨hop.symm, ha.symm, Command.byteOperand_eq_of_setWidth hd⟩

theorem Command.eq_of_and_byteMask {w w' : Command} (h : w &&& 0xF000000FF#36 = w' &&& 0xF000000FF#36) :
    w'.op = w.op ∧ w'.byteOperand = w.byteOperand := by
  rw [Command.and_byteMask, Command.and_byteMask, Command.assemble_inj] at h
  obtain ⟨hop, -, hd⟩ := h
  exact ⟨hop.symm, Command.byteOperand_eq_of_setWidth hd⟩

theorem Command.eq_of_and_kindMask {w w' : Command} (h : w &&& 0xF00000007#36 = w' &&& 0xF00000007#36) :
    w'.op = w.op ∧ w'.kindOperand = w.kindOperand := by
  rw [Command.and_kindMask, Command.and_kindMask, Command.assemble_inj] at h
  obtain ⟨hop, -, hd⟩ := h
  exact ⟨hop.symm, Command.kindOperand_eq_of_setWidth hd⟩

theorem Command.eq_of_and_fullMask {w w' : Command} (h : w &&& 0xFFFFFFFFF#36 = w' &&& 0xFFFFFFFFF#36) : w' = w := by
  rwa [Command.and_fullMask, Command.and_fullMask, eq_comm] at h

theorem decodeKind_of_ofCode {w : Command} {k : Kind} (make : Kind → Instr) (h : Kind.ofCode w.kindOperand = some k) :
    decodeKind w make = .ok (make k) := by
  simp only [decodeKind, h]

/-- Settles O8: per row of the operand table, the used bits give `op` and the operands, and the decoder reads nothing
else. -/
theorem ignoredBitsDoNotDecode : Obligations.IgnoredBitsDoNotDecode := by
  unfold Obligations.IgnoredBitsDoNotDecode
  intro w w' i h heq
  show decodeCommand w' = .ok i
  rcases decodeCommand_cases h with ⟨hw, rfl⟩ | ⟨hw, rfl⟩ | ⟨hw, rfl⟩ | ⟨hw, rfl⟩ | ⟨hw, rfl⟩ | ⟨hw, k, hk, rfl⟩ |
    ⟨hw, k, hk, rfl⟩ | ⟨hw, rfl⟩ | ⟨-, rfl⟩
  · obtain ⟨hop, ha⟩ := Command.eq_of_and_addrMask heq
    simp [decodeCommand, hop, hw, ha]
  · obtain ⟨hop, ha, hv⟩ := Command.eq_of_and_addrByteMask heq
    simp [decodeCommand, hop, hw, ha, hv]
  · obtain ⟨hop, ha⟩ := Command.eq_of_and_addrMask heq
    simp [decodeCommand, hop, hw, ha]
  · rwa [Command.eq_of_and_fullMask heq]
  · obtain ⟨hop, hb⟩ := Command.eq_of_and_byteMask heq
    simp [decodeCommand, hop, hw, hb]
  · obtain ⟨hop, hcode⟩ := Command.eq_of_and_kindMask heq
    simp [decodeCommand, hop, hw, decodeKind_of_ofCode _ (hcode ▸ hk)]
  · obtain ⟨hop, hcode⟩ := Command.eq_of_and_kindMask heq
    simp [decodeCommand, hop, hw, decodeKind_of_ofCode _ (hcode ▸ hk)]
  · obtain ⟨hop, hp⟩ := Command.eq_of_and_byteMask heq
    simp [decodeCommand, hop, hw, hp]
  · rwa [Command.eq_of_and_fullMask heq]

end Sys2Proof

/-! ### Refusals (O9, O10, O11), and every row as its command (O12) -/

namespace Sys2Proof

theorem Kind.ofCode_eq_none_iff {c : BitVec 3} : Kind.ofCode c = none ↔ 5 ≤ c.toNat := by
  revert c
  decide

theorem Command.kindOperand_toNat (w : Command) : w.kindOperand.toNat = w.toNat % 8 := by
  simp only [Command.kindOperand, Command.data, BitVec.extractLsb'_toNat, Nat.shiftRight_zero]
  omega

theorem decodeKind_eq_error_iff {w : Command} {make : Kind → Instr} {e : DecodeError} :
    decodeKind w make = .error e ↔ e = .invalidKind w ∧ 5 ≤ w.toNat % 8 := by
  rw [← Command.kindOperand_toNat, ← Kind.ofCode_eq_none_iff]
  cases hk : Kind.ofCode w.kindOperand <;> simp [decodeKind, hk, eq_comm]

/-- R92: the command port answers nothing exactly where an interrupt operation's kind code names no kind. -/
theorem decodeCommand_eq_error_iff {w : Command} {e : DecodeError} :
    decodeCommand w = .error e ↔ e = .invalidKind w ∧ (w.op = 5#4 ∨ w.op = 6#4) ∧ 5 ≤ w.toNat % 8 := by
  by_cases h5 : w.op = 5#4
  · simp [decodeCommand, h5, decodeKind_eq_error_iff]
  by_cases h6 : w.op = 6#4
  · simp [decodeCommand, h6, decodeKind_eq_error_iff]
  · unfold decodeCommand
    split_ifs <;> simp [h5, h6]

theorem Command.op_eq_iff {w : Command} {c : BitVec 4} : w.op = c ↔ w.toNat / 2 ^ 32 = c.toNat := by
  rw [← Command.op_toNat, BitVec.toNat_inj]

theorem Command.addr_toNat (w : Command) : w.addr.toNat = w.toNat / 2 ^ 16 % 2 ^ 16 := by
  simp only [Command.addr, BitVec.extractLsb'_toNat, Nat.shiftRight_eq_div_pow]

theorem Command.data_toNat (w : Command) : w.data.toNat = w.toNat % 2 ^ 16 := by
  simp only [Command.data, BitVec.extractLsb'_toNat, Nat.shiftRight_zero]

/-- R81, in arithmetic: `op ++ addr ++ data`. -/
theorem Command.assemble_eq_ofNat (op : BitVec 4) (a : Addr) (d : Word) :
    Command.assemble op a d = BitVec.ofNat 36 (op.toNat * 2 ^ 32 + a.toNat * 2 ^ 16 + d.toNat) := by
  have hop := op.isLt
  have ha := a.isLt
  have hd := d.isLt
  rw [← Command.assemble_fields (BitVec.ofNat 36 _), Command.assemble_inj]
  refine ⟨?_, ?_, ?_⟩ <;> apply BitVec.eq_of_toNat_eq
  · rw [Command.op_toNat, BitVec.toNat_ofNat]
    omega
  · rw [Command.addr_toNat, BitVec.toNat_ofNat]
    omega
  · rw [Command.data_toNat, BitVec.toNat_ofNat]
    omega

end Sys2Proof

namespace Sys2Proof.Machine

open Sys2Proof

theorem respondByte_ne_refused (x : Except Fault Byte) (s : State) (r : Refusal) : respondByte x s ≠ .refused r := by
  cases x <;> exact nofun

theorem respondWord_ne_refused (x : Except Fault Word) (s : State) (r : Refusal) : respondWord x s ≠ .refused r := by
  cases x <;> exact nofun

theorem respondUnit_ne_refused (x : Except Fault State) (r : Refusal) : respondUnit x ≠ .refused r := by
  cases x <;> exact nofun

/-- R214: the reserved row is the only operation that refuses. -/
theorem reserved_of_exec_refused {i : Instr} {s : State} {r : Refusal} (h : exec i s = .refused r) :
    ∃ op a d, i = .reserved op a d := by
  by_cases hi : i.isStrap = true
  · obtain ⟨v, hv⟩ := strap_cases i hi
    rw [hv] at h
    cases h
  rw [Bool.not_eq_true] at hi
  rcases command_cases i hi with ⟨a, hc⟩ | ⟨a, v, hc⟩ | ⟨a, hc⟩ | ⟨a, w, rfl⟩ | ⟨b, rfl⟩ | ⟨k, rfl⟩ | ⟨k, rfl⟩ |
    ⟨p, rfl⟩ | hr
  · rw [exec_eq_exec_command, hc] at h
    exact absurd h (respondByte_ne_refused _ _ _)
  · rw [exec_eq_exec_command, hc] at h
    cases h
  · rw [exec_eq_exec_command, hc] at h
    exact absurd h (respondWord_ne_refused _ _ _)
  · exact absurd h (respondUnit_ne_refused _ _)
  · cases h
  · cases h
  · cases h
  · exact absurd h (respondUnit_ne_refused _ _)
  · exact hr

theorem exec_reserved (op : BitVec 4) (a : Addr) (d : Word) (s : State) :
    exec (.reserved op a d) s = .refused (.invalidCommand (Command.assemble op a d)) := rfl

/-- R92: the reserved row is decoded only from a reserved code, whose word it is refused as. -/
theorem exec_refused_iff_of_decodeCommand {w : Command} {i : Instr} (h : decodeCommand w = .ok i) (s : State) :
    exec i s = .refused (.invalidCommand w) ↔ 8 ≤ w.op.toNat := by
  refine ⟨fun hex => ?_, fun hop => ?_⟩
  · obtain ⟨op, a, d, rfl⟩ := reserved_of_exec_refused hex
    obtain ⟨-, hwf⟩ := command_and_wellFormed_of_decodeCommand h
    have hself := encode_of_decodeCommand h
    rw [usedBits, Command.and_fullMask, encode, Request.command.injEq] at hself
    rw [← hself, Command.op_assemble]
    exact of_decide_eq_true hwf
  · rw [decodeCommand_of_op_ge hop] at h
    cases h
    rw [exec_reserved, Command.assemble_fields]

/-- Settles O9: a word that decodes is refused only as the reserved row, and one that does not has a kind code that names
no kind. -/
theorem exactlyTheInvalidWordsAreRefused : Obligations.ExactlyTheInvalidWordsAreRefused := by
  unfold Obligations.ExactlyTheInvalidWordsAreRefused
  intro s w rest hp
  have h5 : w.op = 5#4 ↔ w.toNat / 2 ^ 32 = 5 := Command.op_eq_iff
  have h6 : w.op = 6#4 ↔ w.toNat / 2 ^ 32 = 6 := Command.op_eq_iff
  rw [← h5, ← h6, ← Command.op_toNat]
  cases hd : decodeCommand w with
  | error e =>
    obtain ⟨rfl, hkind⟩ := decodeCommand_eq_error_iff.mp hd
    rw [step_of_decode_error hp hd]
    exact ⟨fun _ => .inr hkind, fun _ => rfl⟩
  | ok i =>
    have hkind : ¬ ((w.op = 5#4 ∨ w.op = 6#4) ∧ 5 ≤ w.toNat % 8) := fun hk => by
      rw [decodeCommand_eq_error_iff.mpr ⟨rfl, hk⟩] at hd
      cases hd
    rw [step_of_decode_ok hp hd, exec_refused_iff_of_decodeCommand hd, or_iff_left hkind]

/-- Settles O10: the row's word, in arithmetic. -/
theorem reservedRowIsInvalidCommand : Obligations.ReservedRowIsInvalidCommand := by
  unfold Obligations.ReservedRowIsInvalidCommand
  intro op a d s
  rw [exec_reserved, Command.assemble_eq_ofNat]

/-- Settles O11: one decoding per tag; a construction is the exec arm of its row. -/
theorem malformedVariantTagsConstructNothing : Obligations.MalformedVariantTagsConstructNothing := by
  unfold Obligations.MalformedVariantTagsConstructNothing
  intro s tag rest hp
  have htag : ∀ c : StrapTag, tag.toNat = c.toNat → tag = c := fun _ => BitVec.eq_of_toNat_eq
  refine ⟨?_, fun h => ?_, fun h => ?_, fun h => ?_, fun h => ?_, fun h => ?_⟩
  · rintro (h | h | h)
    · obtain rfl := htag 4#3 h
      exact step_of_decode_error hp rfl
    · obtain rfl := htag 6#3 h
      exact step_of_decode_error hp rfl
    · obtain rfl := htag 7#3 h
      exact step_of_decode_error hp rfl
  · exact step_of_decode_ok (i := .variantNone) hp (htag 0#3 h ▸ rfl)
  · exact step_of_decode_ok (i := .variantType1) hp (htag 1#3 h ▸ rfl)
  · exact step_of_decode_ok (i := .variantType2) hp (htag 2#3 h ▸ rfl)
  · exact step_of_decode_ok (i := .variantType3) hp (htag 3#3 h ▸ rfl)
  · exact step_of_decode_ok (i := .variantType5) hp (htag 5#3 h ▸ rfl)

/-- Settles O12: `exec_eq_exec_command`, row family by row family. -/
theorem everyRowActsAsItsCommand : Obligations.EveryRowActsAsItsCommand := by
  unfold Obligations.EveryRowActsAsItsCommand
  exact exec_eq_exec_command

end Sys2Proof.Machine

/-! ### The region decode over the command word (O13) -/

namespace Sys2Proof

/-- R87: a mask on the address field tests the address alone. -/
theorem Command.and_addrField_eq_iff (w : Command) (m b : Addr) :
    w &&& Command.assemble 0#4 m 0#16 = Command.assemble 0#4 b 0#16 ↔ w.addr &&& m = b := by
  simp [Command.and_mask, Command.assemble_inj]

theorem Addr.and_highByte_eq_iff (a : Addr) : a &&& 0xFF00#16 = 0xFF00#16 ↔ a.extractLsb' 8 8 = 0xFF#8 := by
  simp only [BitVec.eq_of_getLsbD_eq_iff, Nat.forall_lt_succ_right, Nat.not_lt_zero, false_imp_iff, implies_true,
    true_and]
  simp

theorem Addr.and_bit15_eq_iff (a : Addr) : a &&& 0x8000#16 = 0x8000#16 ↔ a.getLsbD 15 = true := by
  rw [show 0x8000#16 = BitVec.twoPow 16 15 from rfl, BitVec.and_twoPow]
  cases a.getLsbD 15
  · decide
  · simp

theorem Addr.and_bits15_14_eq_iff (a : Addr) :
    a &&& 0xC000#16 = 0x4000#16 ↔ a.getLsbD 15 = false ∧ a.getLsbD 14 = true := by
  simp only [BitVec.eq_of_getLsbD_eq_iff, Nat.forall_lt_succ_right, Nat.not_lt_zero, false_imp_iff, implies_true,
    true_and]
  simp [and_comm]

end Sys2Proof

namespace Sys2Proof.Machine

open Sys2Proof

/-- R87: the four masks of the priority decode are the four tests of `region`. -/
theorem region_addr (w : Command) : region w.addr =
    if w &&& 0x0FFFF0000#36 = 0x0FFFF0000#36 then .ie
    else if w &&& 0x0FF000000#36 = 0x0FF000000#36 then .io
    else if w &&& 0x080000000#36 = 0x080000000#36 then .high
    else if w &&& 0x0C0000000#36 = 0x040000000#36 then .banked
    else .low := by
  have hie : w &&& 0x0FFFF0000#36 = 0x0FFFF0000#36 ↔ w.addr &&& 0xFFFF#16 = 0xFFFF#16 :=
    w.and_addrField_eq_iff 0xFFFF#16 0xFFFF#16
  have hio : w &&& 0x0FF000000#36 = 0x0FF000000#36 ↔ w.addr &&& 0xFF00#16 = 0xFF00#16 :=
    w.and_addrField_eq_iff 0xFF00#16 0xFF00#16
  have hhigh : w &&& 0x080000000#36 = 0x080000000#36 ↔ w.addr &&& 0x8000#16 = 0x8000#16 :=
    w.and_addrField_eq_iff 0x8000#16 0x8000#16
  have hbanked : w &&& 0x0C0000000#36 = 0x040000000#36 ↔ w.addr &&& 0xC000#16 = 0x4000#16 :=
    w.and_addrField_eq_iff 0xC000#16 0x4000#16
  rw [Command.addr_and_allOnes] at hie
  rw [Addr.and_highByte_eq_iff] at hio
  rw [Addr.and_bit15_eq_iff] at hhigh
  rw [Addr.and_bits15_14_eq_iff] at hbanked
  simp only [hie, hio, hhigh, hbanked, region]
  cases w.addr.getLsbD 15 <;> simp

/-- R51: the five ranges of the address map, read off `region_eq`. -/
theorem region_iff (a : Addr) :
    (region a = .low ↔ a.toNat < 0x4000) ∧
    (region a = .banked ↔ 0x4000 ≤ a.toNat ∧ a.toNat < 0x8000) ∧
    (region a = .high ↔ 0x8000 ≤ a.toNat ∧ a.toNat < 0xFF00) ∧
    (region a = .io ↔ 0xFF00 ≤ a.toNat ∧ a.toNat < 0xFFFF) ∧
    (region a = .ie ↔ a.toNat = 0xFFFF) := by
  have hlt := a.isLt
  rw [region_eq]
  split_ifs <;> simp <;> omega

theorem bit15_clear_iff (a : Addr) : a.getLsbD 15 = false ↔ a.toNat < 0x8000 := by
  have hlt := a.isLt
  rw [getLsbD_iff, decide_eq_false_iff_not]
  omega

/-- Settles O13: the masks are the region decode's tests, and its cases are the five ranges. -/
theorem regionDecodeIsTotalAndDisjoint : Obligations.RegionDecodeIsTotalAndDisjoint := by
  unfold Obligations.RegionDecodeIsTotalAndDisjoint
  refine ⟨region_addr, fun a => ?_⟩
  obtain ⟨hlow, hbanked, hhigh, hio, hie⟩ := region_iff a
  refine ⟨hlow, hbanked, hhigh, hio, hie, ?_⟩
  rw [hlow, hbanked, bit15_clear_iff]
  omega

end Sys2Proof.Machine

/-! ### Bypass transfers (O50) -/

namespace Sys2Proof.Machine

open Sys2Proof

/-- R58, R113: every bank offset is a multiple of 256, so a byte of the bus depends on no storage cell at another place in its
page. -/
theorem busByte_storeCell_other {s : State} {k a : Nat} (v : Byte) (h : a % 256 ≠ k % 256) :
    busByte (storeCell k v s) a = busByte s a := by
  have hcell : ∀ j, j % 256 = a % 256 → (storeCell k v s).storage.read j = s.storage.read j := fun j hj =>
    Memory.read_write_other _ _ (by rintro rfl; exact h hj.symm)
  have hindex : effectiveIndex (storeCell k v s) = effectiveIndex s := rfl
  unfold busByte
  rw [hindex, hcell a rfl, hcell _ (by omega)]
  rfl

/-- Pages do not cross the bounds of the banked window (R90). -/
theorem readable_of_page {s : State} {p : Byte} {i : Nat} (hi : i < dmaLen) (h : Readable s (p.toNat * 256)) :
    Readable s (p.toNat * 256 + i) := by
  unfold dmaLen at hi
  rw [Nat.mul_comm] at h ⊢
  rcases h with hlow | hhigh | hindex | hwrap
  · exact .inl (by omega)
  · exact .inr (.inl (by omega))
  · exact .inr (.inr (.inl hindex))
  · exact .inr (.inr (.inr hwrap))

/-- R164: one iteration past the gate. -/
theorem copyStep_bypass {s : State} {p : Byte} {i : Nat} (hm : s.params.dmaMode = .bypass) (hi : i < dmaLen)
    (h : Readable s (p.toNat * 256)) :
    copyStep p i s = .ok (storeCell (0xFE00 + i) (busByte s (p.toNat * 256 + i)) s) := by
  have hsource := dmaSource_toNat p hi
  have hread : ungatedRead (dmaSource p i) s = .ok (busByte s (p.toNat * 256 + i)) := by
    rw [← hsource]
    exact ungatedRead_busByte (hsource ▸ readable_of_page hi h)
  simp only [copyStep, copyRead, copyWrite, hm, hread, dmaDest_toNat hi]

/-- R162, R164, D16: the loop past the gate copies the source bytes as they were before it: what it writes at the place `i` of
a page is read back at no later place. -/
theorem copyLoop_bypass {s : State} {p : Byte} {n i : Nat} (hm : s.params.dmaMode = .bypass) (hn : i + n ≤ dmaLen)
    (h : Readable s (p.toNat * 256)) :
    ∃ t, copyLoop p n i s = .ok t ∧
      ∀ j, i ≤ j → j < i + n → t.storage.read (0xFE00 + j) = busByte s (p.toNat * 256 + j) := by
  induction n generalizing i s with
  | zero => exact ⟨s, rfl, fun j hge hlt => by omega⟩
  | succ n ih =>
    have hi : i < dmaLen := by omega
    obtain ⟨t, ht, hcopied⟩ :=
      ih (s := storeCell (0xFE00 + i) (busByte s (p.toNat * 256 + i)) s) (i := i + 1) hm (by omega) h
    refine ⟨t, by simp only [copyLoop, copyStep_bypass hm hi h, ht], fun j hge hlt => ?_⟩
    rcases Nat.eq_or_lt_of_le hge with rfl | hgt
    · obtain ⟨-, hkept⟩ := copyLoop_frame (s := storeCell (0xFE00 + i) _ s) hm (by omega) ht
      rw [hkept _ (by omega), storeCell_storage, Memory.read_write_same]
    · unfold dmaLen at hn
      rw [hcopied j hgt (by omega), busByte_storeCell_other _ (by omega)]

/-- Settles O50: the loop gives the copied cells, and the frame of a transfer the rest. -/
theorem bypassTransfersCopyThePage : Obligations.BypassTransfersCopyThePage := by
  unfold Obligations.BypassTransfersCopyThePage
  intro s p htip hm h
  obtain ⟨u, hu, hcopied⟩ := copyLoop_bypass (s := { s with tip := true }) (n := dmaLen) (i := 0) hm (by simp) h
  have hdma : dmaTransfer p s = .ok { u with tip := false } := by simp [dmaTransfer, htip, hu]
  obtain ⟨hframe, hother, -⟩ := dmaTransfer_frame hdma
  refine ⟨{ u with tip := false, rsp := .unit }, ?_, ?_, fun i hi => ?_, hother⟩
  · show respondUnit (dmaTransfer p s) = _
    rw [hdma]
    rfl
  · exact congrArg (fun t : State => { t with rsp := .unit }) hframe
  · exact hcopied i (Nat.zero_le i) (by simpa [dmaLen] using hi)

end Sys2Proof.Machine

/-! ### Fixed words and straps (O5, O52) -/

namespace Sys2Proof.Machine

open Sys2Proof

/-- Settles O5: the decoder on each of the ten words. -/
theorem decodesWordsOfTheEncodingTable : Obligations.DecodesWordsOfTheEncodingTable := by
  unfold Obligations.DecodesWordsOfTheEncodingTable
  decide

/-- Settles O52: each STRAP row is `constructInstance` of its variant, whose fields are R40's. -/
theorem strapsConstructTheirVariant : Obligations.StrapsConstructTheirVariant := by
  unfold Obligations.StrapsConstructTheirVariant
  exact fun s => ⟨rfl, rfl, rfl, rfl, rfl⟩

end Sys2Proof.Machine

/-! ### Byte reads, region by region (O14, O15, O16) -/

namespace Sys2Proof.Machine

open Sys2Proof

/-- Settles O14: every row is the command, whose read is gated. -/
theorem gatedReadsReturnFF : Obligations.GatedReadsReturnFF := by
  unfold Obligations.GatedReadsReturnFF
  intro s a ht i hi
  rw [exec_of_mem_readRows hi, exec_readByte, readByte_gated a ht]
  rfl

/-- R51, R110: rows that share the words of `read_byte` give what the address map says. -/
theorem exec_readRows_of_readable {s : State} {a : Addr} {rows : List Instr} (hrows : rows ⊆ readRows a)
    (ht : s.tip = false) (hr : Readable s a.toNat) :
    ∀ i ∈ rows, exec i s = .next { s with rsp := .byte (busByte s a.toNat) } := by
  intro i hi
  rw [exec_of_mem_readRows (hrows hi), exec_readByte_of_readable ht hr]

/-- Settles O15: outside the banked window every address is readable, and in LOW and HIGH the address map gives the cell with
the address's own index. -/
theorem lowAndHighReadsAreDirect : Obligations.LowAndHighReadsAreDirect := by
  unfold Obligations.LowAndHighReadsAreDirect
  refine ⟨fun s a ht ha => ?_, fun s a ht ha ha' => ?_⟩
  · rw [← busByte_low ha]
    exact exec_readRows_of_readable (by simp [readRows]) ht (.inl ha)
  · rw [← busByte_high ha ha']
    exact exec_readRows_of_readable (by simp [readRows]) ht (readable_of_high ha)

/-- Settles O16: the top two ranges of the address map. -/
theorem ioAndIeReadsReturnTheRegister : Obligations.IoAndIeReadsReturnTheRegister := by
  unfold Obligations.IoAndIeReadsReturnTheRegister
  refine ⟨fun s a ht ha ha' => ?_, fun s ht => ?_⟩
  · rw [← busByte_io ha ha']
    exact exec_readRows_of_readable (by simp [readRows]) ht (readable_of_high (by omega))
  · rw [← busByte_ie s]
    exact exec_readRows_of_readable (a := 0xFFFF#16) (by simp [readRows]) ht (readable_of_high (by decide))

/-! ### Byte writes, region by region (O23 to O27) -/

/-- R84: rows that share the words of `write_byte` act as it. -/
theorem exec_writeRows {a : Addr} {v : Byte} {rows : List Instr} (hrows : rows ⊆ writeRows a v) (s : State) :
    ∀ i ∈ rows, exec i s = .next { writeByte a v s with rsp := .unit } := by
  intro i hi
  have hc : ∀ j ∈ writeRows a v, j.command = .writeByte a v := by simp [writeRows, Instr.command]
  rw [exec_eq_exec_command, hc i (hrows hi), exec_writeByte]

/-- Settles O23: every row is the command, whose write is dropped. -/
theorem gatedWritesAreDropped : Obligations.GatedWritesAreDropped := by
  unfold Obligations.GatedWritesAreDropped
  intro s a v ht i hi
  rw [exec_writeRows (List.Subset.refl _) s i hi, writeByte_gated a v ht]

/-- Rows whose byte write stores at the bus address itself change that one storage cell and nothing else. -/
theorem exec_writeRows_of_storeCell {s : State} {a : Addr} {v : Byte} {rows : List Instr} (hrows : rows ⊆ writeRows a v)
    (hw : writeByte a v s = storeCell a.toNat v s) :
    ∀ i ∈ rows, ∃ t, exec i s = .next t ∧ t = { s with storage := t.storage, rsp := .unit } ∧
      t.storage.read a.toNat = v ∧ ∀ k, k ≠ a.toNat → t.storage.read k = s.storage.read k := by
  intro i hi
  refine ⟨{ storeCell a.toNat v s with rsp := .unit }, ?_, rfl, ?_, fun k hk => ?_⟩
  · rw [exec_writeRows hrows s i hi, hw]
  · exact Memory.read_write_same _ _ v
  · exact Memory.read_write_other _ v hk

/-- Settles O24: a write in HIGH stores at the bus address. -/
theorem highWritesStoreOneCell : Obligations.HighWritesStoreOneCell := by
  unfold Obligations.HighWritesStoreOneCell
  intro s a v ht ha ha'
  exact exec_writeRows_of_storeCell (by simp [writeRows]) (writeByte_high ht ha ha')

/-- Settles O27: under None `ApplyWrite` stores at the bus address. -/
theorem noneVariantStoresControlWrites : Obligations.NoneVariantStoresControlWrites := by
  unfold Obligations.NoneVariantStoresControlWrites
  intro s a v ht hbc ha
  have hw : writeByte a v s = storeCell a.toNat v s := by rw [writeByte_control ht ha, applyWrite_none a v hbc]
  exact exec_writeRows_of_storeCell (by simp [writeRows]) hw

/-- Settles O25: a write in the window is one `storeIo`, and outside it no write reaches `io`. -/
theorem ioWritesStoreOneRegister : Obligations.IoWritesStoreOneRegister := by
  unfold Obligations.IoWritesStoreOneRegister
  refine ⟨fun s a v ht ha ha' i hi => ?_, fun s t a v ha h => ?_⟩
  · refine ⟨{ storeIo (a.toNat - 0xFF00) v s with rsp := .unit }, ?_, rfl, ?_, fun k hk => ?_⟩
    · rw [exec_writeRows (a := a) (v := v) (by simp [writeRows]) s i hi, writeByte_io ht ha ha']
    · exact Memory.read_write_same _ _ v
    · exact Memory.read_write_other _ v hk
  · have hout : ¬ (0xFF00 ≤ a.toNat ∧ a.toNat < 0xFFFF) := by
      rcases ha with hlt | rfl
      · omega
      · decide
    rw [next_of_writeByte h]
    exact writeByte_io_of_not_window hout

/-- Settles O26: at 0xFFFF the byte write sets `IE`. -/
theorem ieWritesSetTheLatchOnly : Obligations.IeWritesSetTheLatchOnly := by
  unfold Obligations.IeWritesSetTheLatchOnly
  intro s v ht i hi
  rw [exec_writeRows (a := 0xFFFF#16) (v := v) (by simp [writeRows]) s i hi, writeByte_ie ht]

/-! ### The I/O window is isolated (O57) -/

/-- R112 to R114: below the window a read looks at no I/O cell. -/
theorem ungatedRead_storeIo {b : Addr} (hb : b.toNat < 0xFF00) (i : Nat) (v : Byte) (s : State) :
    ungatedRead b (storeIo i v s) = ungatedRead b s := by
  unfold ungatedRead
  cases hreg : region b with
  | low => rfl
  | banked => rfl
  | high => rfl
  | io =>
    obtain ⟨-, -, -, hio, -⟩ := region_iff b
    have hwindow := hio.mp hreg
    omega
  | ie => rfl

/-- R121: a write in the window changes neither the value nor the fault of a read below it. -/
theorem readByte_after_ioWrite {s : State} {a b : Addr} {v : Byte} (ht : s.tip = false) (ha : 0xFF00 ≤ a.toNat)
    (ha' : a.toNat < 0xFFFF) (hb : b.toNat < 0xFF00) : readByte b (writeByte a v s) = readByte b s := by
  rw [writeByte_io ht ha ha', readByte_open b ht, readByte_open (s := storeIo _ v s) b ht, ungatedRead_storeIo hb]

theorem readByte_of_exec_next {b : Addr} {x : Byte} {s : State}
    (h : exec (.readByte b) s = .next { s with rsp := .byte x }) : readByte b s = .ok x := by
  rw [exec_readByte] at h
  cases hr : readByte b s with
  | ok y => rw [hr] at h; cases h; rfl
  | error f => rw [hr] at h; cases h

theorem readByte_of_exec_fault {b : Addr} {f : Fault} {s : State} (h : exec (.readByte b) s = .fault f) :
    readByte b s = .error f := by
  rw [exec_readByte] at h
  cases hr : readByte b s with
  | ok y => rw [hr] at h; cases h
  | error f' => rw [hr] at h; cases h; rfl

/-- Settles O57: a read below the window gives after the write what it gave before, and a write below the window leaves
`io`, from which a read in the window is answered. -/
theorem ioWindowIsIsolated : Obligations.IoWindowIsIsolated := by
  unfold Obligations.IoWindowIsIsolated
  intro s a b v ht ha ha' hb
  refine ⟨⟨_, exec_writeByte a v s, fun x hx => ?_, fun f hf => ?_⟩, _, exec_writeByte b v s, ?_⟩
  · rw [exec_readByte, readByte_rsp, readByte_after_ioWrite ht ha ha' hb, readByte_of_exec_next hx]
    rfl
  · rw [exec_readByte, readByte_rsp, readByte_after_ioWrite ht ha ha' hb, readByte_of_exec_fault hf]
    rfl
  · have htip : State.tip { writeByte b v s with rsp := .unit } = false := (writeByte_tip b v s).trans ht
    have hio : (writeByte b v s).io = s.io := writeByte_io_of_not_window (by omega)
    rw [exec_readByte_of_readable htip (readable_of_high (by omega)), busByte_io ha ha', hio]

end Sys2Proof.Machine

/-! ### Word writes (O35, O36) -/

namespace Sys2Proof.Machine

open Sys2Proof

/-- Settles O35: the response that the low byte's write leaves is not seen by the high byte's write. -/
theorem writeWordIsLowThenHigh : Obligations.WriteWordIsLowThenHigh := by
  unfold Obligations.WriteWordIsLowThenHigh
  intro s a w hne
  refine ⟨_, _, exec_writeByte a (loByte w) s, exec_writeByte (secondAddr a) (hiByte w) _, ?_⟩
  have hrsp := writeByte_of_rsp (secondAddr a) (hiByte w) (writeByte a (loByte w) s) .unit
  rw [exec_writeWord hne, hrsp]
  rfl

/-- Whatever its address, a word write leaves the fields that no byte write owns. -/
theorem writePair_frame (a : Addr) (w : Word) (s : State) :
    (writePair a w s).ab = s.ab ∧ (writePair a w s).tip = s.tip ∧ (writePair a w s).params = s.params ∧
    (writePair a w s).bc.variant = s.bc.variant ∧ (writePair a w s).pending = s.pending := by
  simp [writePair]

theorem writePair_storage_other {s : State} {a : Addr} {w : Word} {k : Nat} (hlo : k ≠ a.toNat)
    (hhi : k ≠ (secondAddr a).toNat) : (writePair a w s).storage.read k = s.storage.read k :=
  (writeByte_storage_other hhi).trans (writeByte_storage_other hlo)

theorem writePair_io_other {s : State} {a : Addr} {w : Word} {k : Nat} (hlo : k + 0xFF00 ≠ a.toNat)
    (hhi : k + 0xFF00 ≠ (secondAddr a).toNat) : (writePair a w s).io.read k = s.io.read k :=
  (writeByte_io_other hhi).trans (writeByte_io_other hlo)

theorem writePair_ie_other {s : State} {a : Addr} {w : Word} (hlo : a ≠ 0xFFFF#16) (hhi : secondAddr a ≠ 0xFFFF#16) :
    (writePair a w s).ie = s.ie :=
  (writeByte_ie_other hhi).trans (writeByte_ie_other hlo)

theorem writePair_bc_other {s : State} {a : Addr} {w : Word} (hlo : 0x8000 ≤ a.toNat)
    (hhi : 0x8000 ≤ (secondAddr a).toNat) : (writePair a w s).bc = s.bc :=
  (writeByte_bc_other hhi).trans (writeByte_bc_other hlo)

/-- Settles O36: what both byte writes leave, the word write leaves; below 0xFFFE neither address is `IE`'s, and from 0x8000
up to 0xFFFE neither is in the control range. -/
theorem writeWordFrame : Obligations.WriteWordFrame := by
  unfold Obligations.WriteWordFrame
  intro s t a w h
  rw [next_of_writeWord h]
  refine ⟨fun k => writePair_storage_other, fun k => writePair_io_other, fun hlt => ?_, fun hge hne => ?_,
    writePair_frame a w s⟩
  · have hlo : a ≠ 0xFFFF#16 := by rintro rfl; simp at hlt
    have hhi : secondAddr a ≠ 0xFFFF#16 := fun he => by
      have hsecond := secondAddr_toNat_of_ne hlo
      rw [he, BitVec.toNat_ofNat] at hsecond
      omega
    exact writePair_ie_other hlo hhi
  · exact writePair_bc_other hge (by rw [secondAddr_toNat_of_ne hne]; omega)

end Sys2Proof.Machine

/-! ### Word access at 0xFFFF (O37) -/

namespace Sys2Proof.Machine

open Sys2Proof

/-- R132: under `WORD_WRAP = Fault` the one stopping address is 0xFFFF. -/
theorem wordStops_of_fault {s : State} (h : s.params.wordWrap = .fault) : wordStops 0xFFFF#16 s = true := by
  simp [wordStops, h]

/-- D9: under `WORD_WRAP = Wrap16` no address stops. -/
theorem wordStops_of_wrap16 {s : State} (a : Addr) (h : s.params.wordWrap = .wrap16) : wordStops a s = false := by
  simp [wordStops, h]

theorem exec_readWord_of_wordStops {s : State} {a : Addr} (h : wordStops a s = true) :
    exec (.readWord a) s = .fault (.wordAddressWrap .read) := by
  show respondWord (readWord a s) s = _
  rw [readWord, if_pos h]
  rfl

theorem exec_writeWord_of_wordStops {s : State} {a : Addr} {w : Word} (h : wordStops a s = true) :
    exec (.writeWord a w) s = .fault (.wordAddressWrap .write) := by
  show respondUnit (writeWord a w s) = _
  rw [writeWord, if_pos h]
  rfl

theorem exec_readWord_of_wrap16 {s : State} (a : Addr) (h : s.params.wordWrap = .wrap16) :
    exec (.readWord a) s = respondWord (readPair a s) s := by
  show respondWord (readWord a s) s = _
  simp [readWord, wordStops_of_wrap16 a h]

theorem exec_writeWord_of_wrap16 {s : State} (a : Addr) (w : Word) (h : s.params.wordWrap = .wrap16) :
    exec (.writeWord a w) s = .next { writePair a w s with rsp := .unit } := by
  show respondUnit (writeWord a w s) = _
  simp [writeWord, wordStops_of_wrap16 a h, respondUnit, respond]

theorem secondAddr_ffff : secondAddr 0xFFFF#16 = 0x0000#16 := rfl

/-- D9: the wrapped pair is `IE` and storage cell 0. -/
theorem readPair_ffff {s : State} (ht : s.tip = false) :
    readPair 0xFFFF#16 s = .ok (s.storage.read 0 ++ s.ie) := by
  have hlo : readByte 0xFFFF#16 s = .ok s.ie := readByte_busByte ht (readable_of_high (by decide))
  have hhi : readByte (secondAddr 0xFFFF#16) s = .ok (s.storage.read 0) := readByte_busByte ht (.inl (by decide))
  rw [readPair_of_ok hlo hhi, wordOf_eq_append]

theorem readPair_gated {s : State} (a : Addr) (ht : s.tip = true) : readPair a s = .ok 0xFFFF#16 :=
  readPair_of_ok (readByte_gated a ht) (readByte_gated (secondAddr a) ht)

/-- D9: the wrapped write sets `IE` first; its second byte goes to 0x0000. -/
theorem writePair_ffff {s : State} {w : Word} (ht : s.tip = false) :
    writePair 0xFFFF#16 w s = writeByte 0x0000#16 (hiByte w) { s with ie := loByte w } := by
  rw [writePair, writeByte_ie ht, secondAddr_ffff]

/-- R118: the low byte's write leaves the gate closed for the high byte's. -/
theorem writePair_gated {s : State} (a : Addr) (w : Word) (ht : s.tip = true) : writePair a w s = s := by
  rw [writePair, writeByte_gated a _ ht, writeByte_gated _ _ ht]

/-- Settles O37: the two values of `WORD_WRAP`, and under `Wrap16` the open and the closed gate. -/
theorem wordAccessAtFFFF : Obligations.WordAccessAtFFFF := by
  unfold Obligations.WordAccessAtFFFF
  intro s w
  refine ⟨fun hfault => ⟨?_, ?_⟩, fun hwrap ht => ⟨?_, ?_⟩, fun hwrap ht => ⟨?_, ?_⟩⟩
  · exact exec_readWord_of_wordStops (wordStops_of_fault hfault)
  · exact exec_writeWord_of_wordStops (wordStops_of_fault hfault)
  · rw [exec_readWord_of_wrap16 _ hwrap, readPair_ffff ht]
    rfl
  · rw [exec_writeWord_of_wrap16 _ w hwrap, writePair_ffff ht]
    rfl
  · rw [exec_readWord_of_wrap16 _ hwrap, readPair_gated _ ht]
    rfl
  · rw [exec_writeWord_of_wrap16 _ w hwrap, writePair_gated _ w ht]

end Sys2Proof.Machine

/-! ### Bank select (O21, O43) -/

namespace Sys2Proof.Machine

open Sys2Proof

theorem requestedBank_of_activeBank {s : State} (ha : s.params.bankAuthority = .activeBank) :
    requestedBank s = s.ab.toNat := by
  simp only [requestedBank, ha]

/-- D6: under the controller's authority `AB` stands in only where the controller has no `rom_bank`. -/
theorem requestedBank_of_controllerRomBank {s : State} (ha : s.params.bankAuthority = .controllerRomBank) :
    requestedBank s = (controllerRomBank s.bc).getD s.ab.toNat := by
  simp only [requestedBank, ha]
  cases controllerRomBank s.bc <;> rfl

/-- Settles O21: the requested bank under each authority, at the controller record of each variant. -/
theorem requestedBankFollowsTheAuthority : Obligations.RequestedBankFollowsTheAuthority := by
  unfold Obligations.RequestedBankFollowsTheAuthority
  intro s
  refine ⟨requestedBank_of_activeBank, fun ha => ?_⟩
  rw [requestedBank_of_controllerRomBank ha]
  refine ⟨fun hbc => ?_, fun r hbc => ?_, fun r hbc => ?_, fun r hbc => ?_, fun r hbc => ?_⟩ <;>
    (rw [hbc]; rfl)

/-- R140, R142: `set_bank` reads neither `TIP` nor the controller. -/
theorem exec_setBank (b : Byte) (s : State) : exec (.setBank b) s = .next { s with ab := b, rsp := .unit } := rfl

/-- Settles O43: the equation of `set_bank` is the statement. -/
theorem setBankSetsTheSelectorOnly : Obligations.SetBankSetsTheSelectorOnly := by
  unfold Obligations.SetBankSetsTheSelectorOnly
  intro s b
  exact exec_setBank b s

end Sys2Proof.Machine

/-! ### Interrupts (O44, O45, O46) -/

namespace Sys2Proof.Machine

open Sys2Proof

/-- R85, R150: the mask of a kind is the power of two at its code. -/
theorem kindMask_eq_twoPow (k : Kind) : kindMask k = BitVec.twoPow 8 k.code.toNat := rfl

/-- R151: the masked test of `IE` asks for the bit at the kind's code. -/
theorem kindEnabled_eq_getLsbD (ie : Byte) (k : Kind) : kindEnabled ie k = ie.getLsbD k.code.toNat := by
  have hmask : kindMask k ≠ 0x00#8 := by cases k <;> decide
  rw [kindEnabled, kindMask_eq_twoPow, BitVec.and_twoPow]
  cases ie.getLsbD k.code.toNat with
  | true => exact bne_iff_ne.mpr hmask
  | false => rfl

/-- R85, R151: the enabled bit of `IE`, in arithmetic. -/
theorem kindEnabled_eq_decide (ie : Byte) (k : Kind) :
    kindEnabled ie k = decide (ie.toNat / 2 ^ k.code.toNat % 2 = 1) := by
  rw [kindEnabled_eq_getLsbD, ← BitVec.testBit_toNat, Nat.testBit_eq_decide_div_mod_eq]

/-- The bit of `IF` that a trigger of the kind sets (R153, D11). -/
def flagBit (m : IfMode) (k : Kind) : Nat := if m = .collapsed then 0 else k.code.toNat

theorem flagBit_lt (m : IfMode) (k : Kind) : flagBit m k < 8 := by
  unfold flagBit
  split
  · decide
  · exact k.code.isLt

/-- R153: the mask that a trigger sets in `IF` is the power of two at the flag bit. -/
theorem ifMask_eq_twoPow (m : IfMode) (k : Kind) : ifMask m k = BitVec.twoPow 8 (flagBit m k) := by
  cases m with
  | collapsed => rfl
  | perKind => exact kindMask_eq_twoPow k

theorem getLsbD_ifMask (m : IfMode) (k : Kind) (j : Nat) : (ifMask m k).getLsbD j = decide (j = flagBit m k) := by
  rw [ifMask_eq_twoPow, BitVec.getLsbD_twoPow, decide_eq_true (flagBit_lt m k), Bool.true_and]
  exact decide_eq_decide.mpr eq_comm

/-- R152: a trigger of an enabled kind stores once, in the `IF` cell. -/
theorem triggerInterrupt_of_enabled {s : State} {k : Kind} (h : kindEnabled s.ie k = true) :
    triggerInterrupt k s = storeIo ifIndex (s.io.read ifIndex ||| ifMask s.params.ifMode k) s := if_pos h

/-- R154: a trigger of a disabled kind does nothing. -/
theorem triggerInterrupt_of_disabled {s : State} {k : Kind} (h : kindEnabled s.ie k = false) :
    triggerInterrupt k s = s := if_neg (by simp [h])

/-- R152: what `IF` holds after a trigger of an enabled kind, bit by bit. -/
theorem triggerInterrupt_if_getLsbD {s : State} {k : Kind} (h : kindEnabled s.ie k = true) (j : Nat) :
    ((triggerInterrupt k s).io.read ifIndex).getLsbD j =
      ((s.io.read ifIndex).getLsbD j || decide (j = flagBit s.params.ifMode k)) := by
  rw [triggerInterrupt_of_enabled h, storeIo_io, Memory.read_write_same, BitVec.getLsbD_or, getLsbD_ifMask]

/-- R151, R155: `check_interrupt` reads neither `IF` nor `TIP`. -/
theorem exec_checkInterrupt (k : Kind) (s : State) :
    exec (.checkInterrupt k) s = .next { s with rsp := .flag (kindEnabled s.ie k) } := rfl

theorem exec_triggerInterrupt (k : Kind) (s : State) :
    exec (.triggerInterrupt k) s = .next { triggerInterrupt k s with rsp := .unit } := rfl

/-- Settles O46: a trigger leaves all but the `IF` cell, whose bits are the old ones and the mode's flag bit. -/
theorem enabledTriggersSetTheFlag : Obligations.EnabledTriggersSetTheFlag := by
  unfold Obligations.EnabledTriggersSetTheFlag
  intro s k hie
  have henabled : kindEnabled s.ie k = true := (kindEnabled_eq_getLsbD s.ie k).trans hie
  refine ⟨_, exec_triggerInterrupt k s, ?_, fun j _ => ?_, fun i hi => ?_⟩
  · exact congrArg (fun t : State => { t with rsp := .unit }) (triggerInterrupt_frame k s)
  · exact triggerInterrupt_if_getLsbD henabled j
  · exact triggerInterrupt_io_other hi

/-- Settles O44: the enabled bit of `IE` in arithmetic, at the code of each kind. -/
theorem checkInterruptReadsTheEnableBit : Obligations.CheckInterruptReadsTheEnableBit := by
  unfold Obligations.CheckInterruptReadsTheEnableBit
  intro s
  have hcheck : ∀ k : Kind, exec (.checkInterrupt k) s =
      .next { s with rsp := .flag (decide (s.ie.toNat / 2 ^ k.code.toNat % 2 = 1)) } := fun k => by
    rw [exec_checkInterrupt, kindEnabled_eq_decide]
  have hbit0 : s.ie.toNat / 2 ^ Kind.vBlank.code.toNat = s.ie.toNat := Nat.div_one _
  refine ⟨?_, hcheck .lcdStat, hcheck .timer, hcheck .serial, hcheck .joypad⟩
  rw [hcheck .vBlank, hbit0]

/-- Settles O45: a trigger of a disabled kind is the identity, and a write at 0xFFFF looks only at the byte written. -/
theorem disabledTriggersAreLost : Obligations.DisabledTriggersAreLost := by
  unfold Obligations.DisabledTriggersAreLost
  intro s k hie
  have hdisabled : kindEnabled s.ie k = false := (kindEnabled_eq_getLsbD s.ie k).trans hie
  refine ⟨?_, fun v ht => ?_⟩
  · rw [exec_triggerInterrupt, triggerInterrupt_of_disabled hdisabled]
  · rw [exec_writeByte, writeByte_of_rsp, writeByte_ie ht]

end Sys2Proof.Machine

/-! ### Block transfers that do nothing (O48, O49) -/

namespace Sys2Proof.Machine

open Sys2Proof

/-- R161: the reentrancy guard. -/
theorem dmaTransfer_of_tip {s : State} (p : Byte) (ht : s.tip = true) : dmaTransfer p s = .ok s := if_pos ht

/-- A transfer that runs to its end goes on with the unit response (R160). -/
theorem exec_dmaTransfer_of_ok {s u : State} {p : Byte} (h : dmaTransfer p s = .ok u) :
    exec (.dmaTransfer p) s = .next { u with rsp := .unit } := by
  show respondUnit (dmaTransfer p s) = _
  rw [h]
  rfl

/-- Settles O49: the guard is tested before anything else, the copy's mode included. -/
theorem reentrantTransfersAreDropped : Obligations.ReentrantTransfersAreDropped := by
  unfold Obligations.ReentrantTransfersAreDropped
  intro s p ht
  exact exec_dmaTransfer_of_ok (dmaTransfer_of_tip p ht)

/-- Settles O48: the transfer closes the gate on itself, so by induction on the loop (`copyLoop_gated`) no iteration reads or
stores anything, and reopening the gate restores the state it began in. -/
theorem selfBlockingTransfersCopyNothing : Obligations.SelfBlockingTransfersCopyNothing := by
  unfold Obligations.SelfBlockingTransfersCopyNothing
  intro s p ht hm
  exact exec_dmaTransfer_of_ok (dmaTransfer_selfBlocking p ht hm)

end Sys2Proof.Machine

/-! ### The bank controller: each variant's row of `Resolve` (O19, O20) -/

namespace Sys2Proof.Machine

open Sys2Proof

/-- R172, ROM mode: `r & 0x1F`. -/
theorem Type1Regs.resolve_of_mode {r : Type1Regs} (h : r.mode = true) (n : Nat) : r.resolve n = n % 32 := by
  rw [Type1Regs.resolve, if_pos h]
  exact Nat.and_two_pow_sub_one_eq_mod n 5

/-- R172, RAM mode: `(r & 0x03) | (ram_bank << 5)` joins two fields that share no bit. -/
theorem Type1Regs.resolve_of_not_mode {r : Type1Regs} (h : r.mode = false) (n : Nat) :
    r.resolve n = n % 4 + 32 * r.ramBank.toNat := by
  have hlow : n &&& 0x03 = n % 4 := Nat.and_two_pow_sub_one_eq_mod n 2
  have hjoin : r.ramBank.toNat <<< 5 + n % 4 = r.ramBank.toNat <<< 5 ||| n % 4 :=
    Nat.shiftLeft_add_eq_or_of_lt (by omega) _
  rw [Type1Regs.resolve, if_neg (by simp [h]), hlow, Nat.or_comm, ← hjoin, Nat.shiftLeft_eq]
  omega

theorem Type1Regs.resolve_eq (r : Type1Regs) (n : Nat) :
    r.resolve n = if r.mode then n % 32 else n % 4 + 32 * r.ramBank.toNat := by
  cases h : r.mode with
  | true => exact Type1Regs.resolve_of_mode h n
  | false => exact Type1Regs.resolve_of_not_mode h n

/-- R173: `r & 0x0F`. -/
theorem resolveLowNibble_eq (n : Nat) : resolveLowNibble n = n % 16 := Nat.and_two_pow_sub_one_eq_mod n 4

/-- Settles O19: Type1's two modes and Type2's nibble in arithmetic; the other rows are the identity by definition. -/
theorem resolveIsTheVariantsRow : Obligations.ResolveIsTheVariantsRow := by
  unfold Obligations.ResolveIsTheVariantsRow
  intro requested
  exact ⟨rfl, fun r => r.resolve_eq requested, fun _ => resolveLowNibble_eq requested, fun _ => rfl, fun _ => rfl⟩

/-- Settles O20: each row's `e` is the state's effective index, which is at most 2 where the effective address lies in
storage; a `resolve` row is then the banked read of `read_byte`. -/
theorem resolveRowsReadAtTheirIndex : Obligations.ResolveRowsReadAtTheirIndex := by
  unfold Obligations.ResolveRowsReadAtTheirIndex
  intro s a e ht ha ha' hin
  have hread : effectiveIndex s = e →
      ∀ i ∈ [Instr.resolveNone a, .resolveType1 a, .resolveType2 a, .resolveType3 a, .resolveType5 a],
        exec i s = .next { s with rsp := .byte (s.storage.read (a.toNat + e * 0x4000)) } := by
    rintro rfl i hi
    rw [exec_resolveRows a s i hi, exec_readByte_window ht ha ha' (by omega)]
  obtain ⟨hnone, htype1, htype2, htype3, htype5⟩ := resolveIsTheVariantsRow (requestedBank s)
  refine ⟨fun hbc he => hread ?_ _ (by simp), fun r hbc he => hread ?_ _ (by simp),
    fun r hbc he => hread ?_ _ (by simp), fun r hbc he => hread ?_ _ (by simp), fun r hbc he => hread ?_ _ (by simp)⟩
  · rw [effectiveIndex, hbc, hnone, he]
  · rw [effectiveIndex, hbc, htype1, he]
  · rw [effectiveIndex, hbc, htype2, he]
  · rw [effectiveIndex, hbc, htype3, he]
  · rw [effectiveIndex, hbc, htype5, he]

end Sys2Proof.Machine

/-! ### The bank controller: the register fields of a control write, in arithmetic -/

namespace Sys2Proof.Machine

open Sys2Proof

/-- A mask of the low `k` bits is the remainder by `2 ^ k`. -/
theorem toNat_and_lowMask {n k : Nat} (hk : k ≤ n) (x : BitVec n) :
    (x &&& BitVec.ofNat n (2 ^ k - 1)).toNat = x.toNat % 2 ^ k := by
  have hlt : 2 ^ k - 1 < 2 ^ n := by
    have hle : 2 ^ k ≤ 2 ^ n := Nat.pow_le_pow_right (by decide) hk
    have hpos : 0 < 2 ^ k := Nat.two_pow_pos k
    omega
  rw [BitVec.toNat_and, BitVec.toNat_ofNat, Nat.mod_eq_of_lt hlt, Nat.and_two_pow_sub_one_eq_mod]

/-- A register that takes the low `k` bits of the byte written. -/
theorem setWidth_and_lowMask {k : Nat} (hk : k ≤ 8) (v : Byte) :
    (v &&& BitVec.ofNat 8 (2 ^ k - 1)).setWidth k = BitVec.ofNat k (v.toNat % 2 ^ k) := by
  apply BitVec.eq_of_toNat_eq
  rw [BitVec.toNat_setWidth, toNat_and_lowMask hk, BitVec.toNat_ofNat]

/-- R178: the low nibble alone decides. -/
theorem enableOf_eq (v : Byte) : enableOf v = decide (v.toNat % 16 = 0x0A) := by
  have hlow : (v &&& 0x0F#8).toNat = v.toNat % 16 := toNat_and_lowMask (k := 4) (by decide) v
  rw [enableOf, ← hlow, Bool.beq_eq_decide_eq]
  exact decide_eq_decide.mpr BitVec.toNat_inj.symm

/-- R182: bit 0 alone decides. -/
theorem modeOf_eq (v : Byte) : modeOf v = decide (v.toNat % 2 = 0) := by
  have hlow : (v &&& 0x01#8).toNat = v.toNat % 2 := toNat_and_lowMask (k := 1) (by decide) v
  rw [modeOf, ← hlow, Bool.beq_eq_decide_eq]
  exact decide_eq_decide.mpr BitVec.toNat_inj.symm

/-- A register made of two fields: `hi` from bit `k` up, `lo` below. -/
theorem getLsbD_ofNat_mul_add (n : Nat) {k lo : Nat} (hi : Nat) (hlo : lo < 2 ^ k) (i : Nat) :
    (BitVec.ofNat n (hi * 2 ^ k + lo)).getLsbD i =
      (decide (i < n) && if i < k then lo.testBit i else hi.testBit (i - k)) := by
  rw [BitVec.getLsbD_ofNat, Nat.mul_comm hi, Nat.testBit_two_pow_mul_add hi hlo]

/-- R180, R191: the low `k` bits of a register replaced by `lo`, the others kept. -/
theorem getLsbD_replaceLow {n : Nat} (k : Nat) (x : BitVec n) (lo i : Nat) (hi : i < n) :
    (BitVec.ofNat n (x.toNat / 2 ^ k * 2 ^ k + lo % 2 ^ k)).getLsbD i =
      if i < k then lo.testBit i else x.getLsbD i := by
  rw [getLsbD_ofNat_mul_add n _ (Nat.mod_lt _ (Nat.two_pow_pos k)), decide_eq_true hi, Bool.true_and,
    Nat.testBit_mod_two_pow, Nat.testBit_div_two_pow, BitVec.testBit_toNat]
  split_ifs with h
  · rw [decide_eq_true h, Bool.true_and]
  · rw [Nat.sub_add_cancel (Nat.le_of_not_lt h)]

/-- R181, R192: the bits of a register from bit `k` up replaced by `top`, the others kept. -/
theorem getLsbD_replaceHigh {n : Nat} (k : Nat) (x : BitVec n) (top i : Nat) (hi : i < n) :
    (BitVec.ofNat n (x.toNat % 2 ^ k + top * 2 ^ k)).getLsbD i =
      if i < k then x.getLsbD i else top.testBit (i - k) := by
  rw [Nat.add_comm, getLsbD_ofNat_mul_add n _ (Nat.mod_lt _ (Nat.two_pow_pos k)), decide_eq_true hi, Bool.true_and,
    Nat.testBit_mod_two_pow, BitVec.testBit_toNat]
  split_ifs with h
  · rw [decide_eq_true h, Bool.true_and]
  · rfl

/-- R180: bits 6:5 kept, bits 4:0 from the byte. -/
theorem Type1Regs.setRomBankLo_eq (r : Type1Regs) (v : Byte) :
    r.setRomBankLo v = { r with romBank := BitVec.ofNat 7 (r.romBank.toNat / 32 * 32 + v.toNat % 32) } := by
  have hfields : (r.romBank &&& 0x60#7) ||| (v &&& 0x1F#8).setWidth 7 =
      BitVec.ofNat 7 (r.romBank.toNat / 2 ^ 5 * 2 ^ 5 + v.toNat % 2 ^ 5) := by
    apply BitVec.eq_of_getLsbD_eq
    intro i hi
    rw [getLsbD_replaceLow 5 _ _ i hi, BitVec.testBit_toNat]
    interval_cases i <;> simp
  exact congrArg (fun b => { r with romBank := b }) hfields

/-- R181: `mode` selects the register. -/
theorem Type1Regs.setBankHi_eq (r : Type1Regs) (v : Byte) :
    r.setBankHi v =
      if r.mode then { r with romBank := BitVec.ofNat 7 (r.romBank.toNat % 32 + v.toNat % 4 * 32) }
      else { r with ramBank := BitVec.ofNat 2 (v.toNat % 4) } := by
  have hfields : (r.romBank &&& 0x1F#7) ||| ((v &&& 0x03#8).setWidth 7 <<< 5) =
      BitVec.ofNat 7 (r.romBank.toNat % 2 ^ 5 + v.toNat % 2 ^ 2 * 2 ^ 5) := by
    apply BitVec.eq_of_getLsbD_eq
    intro i hi
    rw [getLsbD_replaceHigh 5 _ _ i hi, Nat.testBit_mod_two_pow, BitVec.testBit_toNat]
    interval_cases i <;> simp
  have hram : (v &&& 0x03#8).setWidth 2 = BitVec.ofNat 2 (v.toNat % 4) := setWidth_and_lowMask (by decide) v
  rw [Type1Regs.setBankHi, hram, hfields]
  rfl

/-- R184: the low nibble. -/
theorem Type2Regs.setRomBank_eq (r : Type2Regs) (v : Byte) :
    r.setRomBank v = { r with romBank := BitVec.ofNat 4 (v.toNat % 16) } :=
  congrArg (fun b => { r with romBank := b }) (setWidth_and_lowMask (by decide) v)

/-- R187: the low 7 bits. -/
theorem Type3Regs.setRomBank_eq (r : Type3Regs) (v : Byte) :
    r.setRomBank v = { r with romBank := BitVec.ofNat 7 (v.toNat % 128) } :=
  congrArg (fun b => { r with romBank := b }) (setWidth_and_lowMask (by decide) v)

/-- R188: the low 2 bits, whatever the others are. -/
theorem Type3Regs.setRamBank_eq (r : Type3Regs) (v : Byte) :
    r.setRamBank v = { r with ramBank := BitVec.ofNat 2 (v.toNat % 4) } :=
  congrArg (fun b => { r with ramBank := b }) (setWidth_and_lowMask (by decide) v)

/-- R193: the low nibble. -/
theorem Type5Regs.setRamBank_eq (r : Type5Regs) (v : Byte) :
    r.setRamBank v = { r with ramBank := BitVec.ofNat 4 (v.toNat % 16) } :=
  congrArg (fun b => { r with ramBank := b }) (setWidth_and_lowMask (by decide) v)

/-- R191: bit 8 kept, bits 7:0 the byte. -/
theorem Type5Regs.setRomBankLo_eq (r : Type5Regs) (v : Byte) :
    r.setRomBankLo v = { r with romBank := BitVec.ofNat 9 (r.romBank.toNat / 256 * 256 + v.toNat) } := by
  have hfields : (r.romBank &&& 0x100#9) ||| v.setWidth 9 =
      BitVec.ofNat 9 (r.romBank.toNat / 2 ^ 8 * 2 ^ 8 + v.toNat % 2 ^ 8) := by
    apply BitVec.eq_of_getLsbD_eq
    intro i hi
    rw [getLsbD_replaceLow 8 _ _ i hi, BitVec.testBit_toNat]
    interval_cases i <;> simp
  rw [Nat.mod_eq_of_lt v.isLt] at hfields
  exact congrArg (fun b => { r with romBank := b }) hfields

/-- R192: bit 8 from the byte's bit 0, bits 7:0 kept. -/
theorem Type5Regs.setRomBankHi_eq (r : Type5Regs) (v : Byte) :
    r.setRomBankHi v = { r with romBank := BitVec.ofNat 9 (r.romBank.toNat % 256 + v.toNat % 2 * 256) } := by
  have hfields : (r.romBank &&& 0x0FF#9) ||| ((v &&& 0x01#8).setWidth 9 <<< 8) =
      BitVec.ofNat 9 (r.romBank.toNat % 2 ^ 8 + v.toNat % 2 ^ 1 * 2 ^ 8) := by
    apply BitVec.eq_of_getLsbD_eq
    intro i hi
    rw [getLsbD_replaceHigh 8 _ _ i hi, Nat.testBit_mod_two_pow, BitVec.testBit_toNat]
    interval_cases i <;> simp
  exact congrArg (fun b => { r with romBank := b }) hfields

end Sys2Proof.Machine

/-! ### Control writes under a banked variant (O28 to O33) -/

namespace Sys2Proof.Machine

open Sys2Proof

/-- R119, R195: with the gate open, a control write under a banked variant, in every row that shares its words, sets the
controller record to what the variant's own cell makes of it and changes nothing else. -/
theorem exec_controlRows {s : State} (a : Addr) (v : Byte) {bc bc' : Controller} {rows : List Instr}
    (ht : s.tip = false) (hbc : s.bc = bc) (hne : bc ≠ .none) (ha : a.toNat < 0x8000) (hrows : rows ⊆ writeRows a v)
    (hcell : bc.written (controlRange a) v = bc') :
    ∀ i ∈ rows, exec i s = .next { s with bc := bc', rsp := .unit } := by
  subst hbc hcell
  intro i hi
  rw [exec_writeRows hrows s i hi, writeByte_control ht ha, applyWrite_of_banked a v hne]

/-- Settles O28: the cell of each sub-range, its register in arithmetic. -/
theorem type1ControlWrites : Obligations.Type1ControlWrites := by
  unfold Obligations.Type1ControlWrites
  intro s r a v ht hbc
  refine ⟨fun hlt => ?_, fun hge hlt => ?_, fun hge hlt => ?_, fun hge hlt => ?_⟩
  all_goals refine exec_controlRows a v ht hbc nofun (by omega) (by simp [writeRows]) ?_
  · rw [controlRange_r0000 hlt, ← enableOf_eq]
    rfl
  · rw [← r.setRomBankLo_eq]
    rcases controlRange_r2000_or_r3000 hge hlt with hc | hc <;> rw [hc] <;> rfl
  · rw [controlRange_r4000 hge hlt, ← r.setBankHi_eq]
    rfl
  · rw [controlRange_r6000 hge hlt, ← modeOf_eq]
    rfl

/-- Settles O29: the cells that write a register, and the two sub-ranges of the cell that writes none. -/
theorem type2ControlWrites : Obligations.Type2ControlWrites := by
  unfold Obligations.Type2ControlWrites
  intro s r a v ht hbc
  refine ⟨fun hlt => ?_, fun hge hlt => ?_, fun hge hlt => ?_⟩
  all_goals refine exec_controlRows a v ht hbc nofun (by omega) (by simp [writeRows]) ?_
  · rw [controlRange_r0000 hlt, ← enableOf_eq]
    rfl
  · rw [← r.setRomBank_eq]
    rcases controlRange_r2000_or_r3000 hge hlt with hc | hc <;> rw [hc] <;> rfl
  · rw [hbc]
    rcases controlRange_r4000_or_r6000 hge hlt with hc | hc <;> rw [hc] <;> rfl

/-- Settles O30: the cells that write a register, and the one that writes none. -/
theorem type3ControlWrites : Obligations.Type3ControlWrites := by
  unfold Obligations.Type3ControlWrites
  intro s r a v ht hbc
  refine ⟨fun hlt => ?_, fun hge hlt => ?_, fun hge hlt => ?_, fun hge hlt => ?_⟩
  all_goals refine exec_controlRows a v ht hbc nofun (by omega) (by simp [writeRows]) ?_
  · rw [controlRange_r0000 hlt, ← enableOf_eq]
    rfl
  · rw [← r.setRomBank_eq]
    rcases controlRange_r2000_or_r3000 hge hlt with hc | hc <;> rw [hc] <;> rfl
  · rw [controlRange_r4000 hge hlt, ← r.setRamBank_eq]
    rfl
  · rw [controlRange_r6000 hge hlt, hbc]
    rfl

/-- Settles O31: the cells that write a register, `rom_bank` in its two parts, and the one that writes none. -/
theorem type5ControlWrites : Obligations.Type5ControlWrites := by
  unfold Obligations.Type5ControlWrites
  intro s r a v ht hbc
  refine ⟨fun hlt => ?_, fun hge hlt => ?_, fun hge hlt => ?_, fun hge hlt => ?_, fun hge hlt => ?_⟩
  all_goals refine exec_controlRows a v ht hbc nofun (by omega) (by simp [writeRows]) ?_
  · rw [controlRange_r0000 hlt, ← enableOf_eq]
    rfl
  · rw [controlRange_r2000 hge hlt, ← r.setRomBankLo_eq]
    rfl
  · rw [controlRange_r3000 hge hlt, ← r.setRomBankHi_eq]
    rfl
  · rw [controlRange_r4000 hge hlt, ← r.setRamBank_eq]
    rfl
  · rw [controlRange_r6000 hge hlt, hbc]
    rfl

/-- R178: the first sub-range is `ram_enable` of every banked variant. -/
theorem ramEnableOf_written_r0000 {bc : Controller} (hne : bc ≠ .none) (v : Byte) :
    ramEnableOf (bc.written .r0000 v) = some (enableOf v) := by
  cases bc with
  | none => exact absurd rfl hne
  | type1 r | type2 r | type3 r | type5 r => rfl

/-- Settles O32: one cell for the four variants, whose value depends on the byte alone. -/
theorem enableNibbleDecidesRamEnable : Obligations.EnableNibbleDecidesRamEnable := by
  unfold Obligations.EnableNibbleDecidesRamEnable
  intro s a v ht hne ha
  have hexec := exec_controlRows (rows := [.writeByte a v]) a v ht rfl hne (by omega) (by simp [writeRows]) rfl
  refine ⟨_, hexec _ (by simp), ?_⟩
  rw [controlRange_r0000 ha, ← enableOf_eq]
  exact ramEnableOf_written_r0000 hne v

theorem Controller.variant_eq_none_iff {bc : Controller} : bc.variant = .none ↔ bc = .none := by
  cases bc <;> simp [Controller.variant]

/-- R195: under a banked variant a byte write stores in no cell below 0x8000. At an address from there up it stores at
that address at most, and below it is a control write. -/
theorem writeByte_storage_low {s : State} {a : Addr} {v : Byte} {k : Nat} (hne : s.bc ≠ .none) (hk : k < 0x8000) :
    (writeByte a v s).storage.read k = s.storage.read k := by
  by_cases ha : a.toNat < 0x8000
  · cases ht : s.tip with
    | true => rw [writeByte_gated a v ht]
    | false => rw [writeByte_control ht ha, applyWrite_of_banked a v hne]
  · exact writeByte_storage_other (by omega)

/-- The controller is banked, and the state holds the byte `b` in the storage cell `k`. -/
def BankedHolding (k : Nat) (b : Byte) (s : State) : Prop := s.bc.variant ≠ .none ∧ s.storage.read k = b

theorem bankedHolding_keptByEffects {k : Nat} (hk : k < 0x8000) (b : Byte) : KeptByEffects (BankedHolding k b) where
  answer _ _ h := h
  byteWrite a v s h := by
    obtain ⟨hvariant, hread⟩ := h
    have hne : s.bc ≠ .none := fun he => hvariant (Controller.variant_eq_none_iff.mpr he)
    exact ⟨writeByte_variant a v s ▸ hvariant, (writeByte_storage_low hne hk).trans hread⟩
  bankSelect _ _ h := h
  trigger j s h := by rwa [triggerInterrupt_frame j s]
  transfer p s u hu h := by
    obtain ⟨hvariant, hread⟩ := h
    obtain ⟨hframe, hother, -⟩ := dmaTransfer_frame hu
    exact ⟨by rwa [hframe], (hother k (by omega)).trans hread⟩

/-- Settles O33: `ApplyWrite` of a banked variant writes the controller record alone, and every effect of an operation
keeps the variant and what a storage cell below 0x8000 holds. -/
theorem bankedVariantsNeverStoreLow : Obligations.BankedVariantsNeverStoreLow := by
  unfold Obligations.BankedVariantsNeverStoreLow
  refine ⟨fun s a v hne => ?_, fun s t i hne hi h k hk => ?_⟩
  · rw [applyWrite_of_banked a v hne]
  · have hstart : BankedHolding k (s.storage.read k) s := ⟨mt Controller.variant_eq_none_iff.mp hne, rfl⟩
    obtain ⟨-, hread⟩ := (bankedHolding_keptByEffects hk _).of_effect (effect_of_exec_next hi h) hstart
    exact hread

end Sys2Proof.Machine

/-! ### Two triggers in either order (O47) -/

namespace Sys2Proof

/-- In canonical form the last write at an index is the only one that leaves a trace. -/
theorem Memory.write_write_same {size a : Nat} {m : Memory} (v w : Byte) (hm : wf size m = true) (ha : a < size) :
    (m.write a v).write a w = m.write a w := by
  refine eq_of_read_eq (write_wf w (write_wf v hm ha) ha) (write_wf w hm ha) fun k => ?_
  simp only [read_write]
  split <;> rfl

end Sys2Proof

namespace Sys2Proof.Machine

open Sys2Proof

theorem storeIo_storeIo_same {s : State} {i : Nat} (v w : Byte) (hs : s.wf = true) (hi : i < 0x100) :
    storeIo i w (storeIo i v s) = storeIo i w s := by
  obtain ⟨-, hio, -⟩ := wf_iff.mp hs
  exact congrArg (fun m => { s with io := m }) (Memory.write_write_same v w hio hi)

@[simp] theorem triggerInterrupt_ie (k : Kind) (s : State) : (triggerInterrupt k s).ie = s.ie := by
  rw [triggerInterrupt_frame]

/-- A trigger neither reads nor writes the response. -/
theorem triggerInterrupt_of_rsp (k : Kind) (s : State) (r : Response) :
    triggerInterrupt k { s with rsp := r } = { triggerInterrupt k s with rsp := r } := by
  unfold triggerInterrupt
  split <;> rfl

/-- R152, R153: after triggers of two enabled kinds `IF` holds both flag bits over what it held before. -/
theorem triggerInterrupt_triggerInterrupt_of_enabled {s : State} {k k' : Kind} (hs : s.wf = true)
    (hk : kindEnabled s.ie k = true) (hk' : kindEnabled s.ie k' = true) :
    triggerInterrupt k' (triggerInterrupt k s) =
      storeIo ifIndex (s.io.read ifIndex ||| ifMask s.params.ifMode k ||| ifMask s.params.ifMode k') s := by
  have hk'_after : kindEnabled (triggerInterrupt k s).ie k' = true := by rwa [triggerInterrupt_ie]
  rw [triggerInterrupt_of_enabled hk'_after, triggerInterrupt_of_enabled hk, storeIo_storeIo_same _ _ hs (by decide),
    storeIo_io, Memory.read_write_same, storeIo_params]

/-- R154: a trigger of a disabled kind makes no difference to a trigger before it or after it. -/
theorem triggerInterrupt_comm_of_disabled {s : State} {k : Kind} (k' : Kind) (hk : kindEnabled s.ie k = false) :
    triggerInterrupt k' (triggerInterrupt k s) = triggerInterrupt k (triggerInterrupt k' s) := by
  have hk_after : kindEnabled (triggerInterrupt k' s).ie k = false := by rwa [triggerInterrupt_ie]
  rw [triggerInterrupt_of_disabled hk, triggerInterrupt_of_disabled hk_after]

/-- R218: the flags of two triggers come together in either order, and a disabled kind is out of play (R154). -/
theorem triggerInterrupt_comm {s : State} (k k' : Kind) (hs : s.wf = true) :
    triggerInterrupt k' (triggerInterrupt k s) = triggerInterrupt k (triggerInterrupt k' s) := by
  cases hk : kindEnabled s.ie k with
  | false => exact triggerInterrupt_comm_of_disabled k' hk
  | true =>
    cases hk' : kindEnabled s.ie k' with
    | false => exact (triggerInterrupt_comm_of_disabled k hk').symm
    | true =>
      rw [triggerInterrupt_triggerInterrupt_of_enabled hs hk hk',
        triggerInterrupt_triggerInterrupt_of_enabled hs hk' hk, BitVec.or_assoc,
        BitVec.or_comm (ifMask s.params.ifMode k), ← BitVec.or_assoc]

/-- The response of the first trigger is not in the way of the second. -/
theorem exec_triggerInterrupt_of_rsp (k : Kind) (s : State) (r : Response) :
    exec (.triggerInterrupt k) { s with rsp := r } = .next { triggerInterrupt k s with rsp := .unit } := by
  rw [exec_triggerInterrupt, triggerInterrupt_of_rsp]

/-- Settles O47: each order goes on twice, and `triggerInterrupt_comm` makes the two ends one; the invariant is needed for
equal arrays to be equal lists. -/
theorem triggersCommute : Obligations.TriggersCommute := by
  unfold Obligations.TriggersCommute
  intro s k k' hinv
  obtain ⟨hwf, -⟩ := hinv
  refine ⟨_, _, _, exec_triggerInterrupt k s, exec_triggerInterrupt_of_rsp k' _ _, exec_triggerInterrupt k' s, ?_⟩
  rw [exec_triggerInterrupt_of_rsp, triggerInterrupt_comm k k' hwf]

end Sys2Proof.Machine

/-! ### Bypass transfers from beyond storage (O51) -/

namespace Sys2Proof.Machine

open Sys2Proof

/-- R90: the first byte of a transfer is read at the page's first address. -/
theorem dmaSource_zero (p : Byte) : dmaSource p 0 = BitVec.ofNat 16 (p.toNat * 256) := by
  rw [dmaSource, Nat.shiftLeft_eq, Nat.add_zero]

/-- R160, R164, R212: an iteration past the gate whose source address names no cell ends in that address's fault. -/
theorem copyStep_outOfRange {s : State} {p : Byte} {i : Nat} (hm : s.params.dmaMode = .bypass)
    (h : ¬ Readable s (dmaSource p i).toNat) :
    copyStep p i s = .error (.bankedReadOutOfRange (dmaSource p i) (effectiveIndex s)) := by
  simp only [copyStep, copyRead, hm, ungatedRead_outOfRange h]

/-- A fault of an iteration ends the loop. -/
theorem copyLoop_of_copyStep_error {s : State} {p : Byte} {i : Nat} {f : Fault} (n : Nat) (h : copyStep p i s = .error f) :
    copyLoop p (n + 1) i s = .error f := by
  simp only [copyLoop, h]

/-- A fault of the first iteration is the transfer's (R160). -/
theorem dmaTransfer_of_copyStep_error {s : State} {p : Byte} {f : Fault} (ht : s.tip = false)
    (h : copyStep p 0 { s with tip := true } = .error f) : dmaTransfer p s = .error f := by
  have hloop : copyLoop p dmaLen 0 { s with tip := true } = .error f := copyLoop_of_copyStep_error 159 h
  simp [dmaTransfer, ht, hloop]

/-- A transfer that a fault ends has no next state. -/
theorem exec_dmaTransfer_of_error {s : State} {p : Byte} {f : Fault} (h : dmaTransfer p s = .error f) :
    exec (.dmaTransfer p) s = .fault f := by
  show respondUnit (dmaTransfer p s) = _
  rw [h]
  rfl

/-- Settles O51: the first iteration reads the page's first address, which is not readable, and
its fault ends the transfer. -/
theorem bypassTransfersFaultOutOfRange : Obligations.BypassTransfersFaultOutOfRange := by
  unfold Obligations.BypassTransfersFaultOutOfRange
  intro s p ht hm hpage
  have hfault : ¬ Readable { s with tip := true } (dmaSource p 0).toNat := by
    rwa [dmaSource_toNat p (by decide), Nat.add_zero]
  have hstep : copyStep p 0 { s with tip := true } = .error (.bankedReadOutOfRange (dmaSource p 0) (effectiveIndex s)) :=
    copyStep_outOfRange (s := { s with tip := true }) hm hfault
  rw [← dmaSource_zero]
  exact exec_dmaTransfer_of_error (dmaTransfer_of_copyStep_error ht hstep)

end Sys2Proof.Machine

/-! ### Reset (O2) -/

namespace Sys2Proof.Machine

open Sys2Proof

/-- R40, R41: a construction leaves the gate open, `io` empty and the loader's image in the storage. -/
theorem construct_inv {p : Params} (v : Variant) (hp : Memory.wf 0x10000 p.initStorage = true) :
    (State.construct p v).Inv :=
  ⟨wf_iff.mpr ⟨hp, rfl, hp⟩, rfl⟩

/-- Settles O2: the default image, with every cell 0x00, is in canonical form. -/
theorem resetMeetsTheRunInvariant : Obligations.ResetMeetsTheRunInvariant := by
  unfold Obligations.ResetMeetsTheRunInvariant
  exact construct_inv .none rfl

end Sys2Proof.Machine

/-! ### Byte round trips (O38, O39) -/

namespace Sys2Proof.Machine

open Sys2Proof

/-- Settles O38: the round trip of one byte, after a write that goes on at every address. -/
theorem bytesRoundTripFrom8000 : Obligations.BytesRoundTripFrom8000 := by
  unfold Obligations.BytesRoundTripFrom8000
  intro s a v ht ha
  exact ⟨_, exec_writeByte a v s, exec_readByte_after_writeByte ht ha⟩

/-- R112: a read in LOW after a byte write gives the storage cell that the write left. -/
theorem readByte_low_after_writeByte {s : State} {a : Addr} (v : Byte) (ht : s.tip = false) (ha : a.toNat < 0x4000) :
    readByte a (writeByte a v s) = .ok ((writeByte a v s).storage.read a.toNat) := by
  have htip : (writeByte a v s).tip = false := (writeByte_tip a v s).trans ht
  rw [readByte_busByte htip (.inl ha), busByte_low ha]

/-- A byte round-trips in LOW exactly when the write leaves it in the storage cell of the bus address. -/
theorem lowRoundTrip_iff {s : State} {a : Addr} (v : Byte) (ht : s.tip = false) (ha : a.toNat < 0x4000) :
    (∃ t, exec (.writeByte a v) s = .next t ∧ exec (.readByte a) t = .next { t with rsp := .byte v }) ↔
      (writeByte a v s).storage.read a.toNat = v := by
  have hread := readByte_low_after_writeByte v ht ha
  constructor
  · rintro ⟨t, hwrite, hback⟩
    have hsame : readByte a t = .ok v := readByte_of_exec_next hback
    rw [next_of_writeByte hwrite, readByte_rsp, hread] at hsame
    exact Except.ok.inj hsame
  · intro hcell
    refine ⟨_, exec_writeByte a v s, ?_⟩
    rw [exec_readByte, readByte_rsp, hread, hcell]
    rfl

/-- Settles O39: under None the write stores at the bus address (R177); under a banked variant it stores nothing (R195), and
the cell cannot hold both of two written values. -/
theorem lowRoundTripExactlyUnderNone : Obligations.LowRoundTripExactlyUnderNone := by
  unfold Obligations.LowRoundTripExactlyUnderNone
  intro s a ht ha
  simp only [lowRoundTrip_iff _ ht ha]
  rw [Controller.variant_eq_none_iff]
  constructor
  · intro hcell
    by_contra hne
    have hkept : ∀ v : Byte, s.storage.read a.toNat = v := fun v =>
      (writeByte_storage_low hne (by omega)).symm.trans (hcell v)
    exact absurd ((hkept 0#8).symm.trans (hkept 1#8)) (by decide)
  · intro hbc v
    rw [writeByte_control ht (by omega), applyWrite_none a v hbc, storeCell_storage, Memory.read_write_same]

end Sys2Proof.Machine

/-! ### A Type1 word write across two control ranges (O42) -/

namespace Sys2Proof.Machine

open Sys2Proof

theorem loByte_toNat (w : Word) : (loByte w).toNat = w.toNat % 256 := by
  simp [loByte, BitVec.extractLsb'_toNat]

theorem hiByte_toNat (w : Word) : (hiByte w).toNat = w.toNat / 256 := by
  have hlt := w.isLt
  simp only [hiByte, BitVec.extractLsb'_toNat, Nat.shiftRight_eq_div_pow]
  omega

/-- R179 to R182: with the gate open, a control write under Type1 is the cell of its sub-range. -/
theorem writeByte_type1 {s : State} {r : Type1Regs} {a : Addr} (v : Byte) (ht : s.tip = false) (hbc : s.bc = .type1 r)
    (ha : a.toNat < 0x8000) : writeByte a v s = { s with bc := .type1 (r.applyWrite (controlRange a) v) } := by
  rw [writeByte_control ht ha, applyWrite_of_banked a v (by simp [hbc]), hbc]
  rfl

/-- R241: at 0x5FFF the low byte goes to the bank cell and the high byte, at 0x6000, to the mode cell. -/
theorem writePair_type1_5fff {s : State} {r : Type1Regs} (w : Word) (ht : s.tip = false) (hbc : s.bc = .type1 r) :
    writePair 0x5FFF#16 w s = { s with bc := .type1 ((r.setBankHi (loByte w)).setMode (hiByte w)) } := by
  have hlo : writeByte 0x5FFF#16 (loByte w) s = { s with bc := .type1 (r.setBankHi (loByte w)) } :=
    writeByte_type1 (loByte w) ht hbc (by decide)
  have hhi := writeByte_type1 (s := { s with bc := .type1 (r.setBankHi (loByte w)) }) (a := 0x6000#16) (hiByte w) ht rfl
    (by decide)
  rw [writePair, hlo]
  exact hhi

/-- Settles O42: the bank cell is decided by the mode of the state before the write, and the mode cell keeps the register the
bank cell wrote. -/
theorem type1WordWriteUsesTheOldMode : Obligations.Type1WordWriteUsesTheOldMode := by
  unfold Obligations.Type1WordWriteUsesTheOldMode
  intro s r w ht hbc
  have hbank : (loByte w).toNat % 4 = w.toNat % 4 := by rw [loByte_toNat]; omega
  have hmode : modeOf (hiByte w) = decide (w.toNat / 256 % 2 = 0) := by rw [modeOf_eq, hiByte_toNat]
  rw [exec_writeWord (by decide), writePair_type1_5fff w ht hbc, Type1Regs.setBankHi_eq, hbank, Type1Regs.setMode, hmode]
  cases r.mode <;> rfl

end Sys2Proof.Machine
